-- ==== Sys2Proof/Word.lean ====
section
/-! DEFINITION. The machine's plainest data: words, bytes and bins (spec/00_scope.md R10). -/

namespace Sys2Proof

/-- A word of 32 bits: a register, a sample, a gain or one half of a bin (R10). -/
abbrev Word := BitVec 32

/-- A byte of the little-endian byte lanes (R55). -/
abbrev Byte := BitVec 8

/-- A bin: an ordered pair of words (R10). -/
structure Bin where
  re : Word
  im : Word
deriving DecidableEq, Repr, Inhabited

/-- The word `+0` (R10). -/
abbrev plusZero : Word := 0x00000000#32

end Sys2Proof
end

