-- ==== Sys2Proof/Config.lean ====
section
/-! DEFINITION. What is fixed for one block: the constants of spec/00_scope.md R7, the open parameters of R8, and the
free values of R49 and R140. An open parameter or a free value is an opaque constant: nothing evaluates it and no proof
knows a value of it. -/

namespace Sys2Proof

/-! ## Fixed constants (R7) -/

/-- Frame size, transform length and window length (R6, R7). -/
abbrev Config.frameSize : Nat := 4096
/-- Padding on each side, `P` (R7). -/
abbrev Config.padLength : Nat := 2048
/-- Spectrum slots per channel and time frames per tensor, `T` (R7). -/
abbrev Config.slots : Nat := 256
/-- Frequency bins per tensor channel, `F` (R7). -/
abbrev Config.tensorBins : Nat := 2048
/-- Words in one tensor channel, `F * T` (R14). -/
abbrev Config.tensorPlane : Nat := 524288
/-- Words in the tensor, `TW`; also the words of each `SPEC[c]` (R7, R38). -/
abbrev Config.tensorWords : Nat := 2097152
/-- The lowest bin packed, `FLO` (R7). -/
abbrev Config.lowestBin : Nat := 3

/-! ## Open parameters (R8) -/

/-- SIG_CAP less its least legal value 6144; every value up to 2^26 - 6144 is possible. Log 6. -/
opaque Config.sigCapAboveLeast : Fin (2 ^ 26 - 6144 + 1)

/-- SIG_CAP, the words of each signal and overlap-add buffer: any value with 6144 <= SIG_CAP <= 2^26 (R8). Log 6. -/
def Config.sigCap : Nat := Config.sigCapAboveLeast.val + 6144

/-- BASE divided by 2^31. Log 7. -/
opaque Config.baseIndex : Nat

/-- BASE, the block's byte address on the host bus: any multiple of 2^31 (R8). Log 7. -/
def Config.base : Nat := Config.baseIndex * 2 ^ 31

/-- The forward transform realisation, a total function of 4096 bins (R95). Nothing is known of its values; a claim that
needs the accuracy of R97 states it as a hypothesis. Log 8. -/
opaque Config.fwdDFT : (Fin 4096 → Bin) → Fin 4096 → Bin

/-- The inverse transform realisation, of the same type (R96). Log 8. -/
opaque Config.invDFT : (Fin 4096 → Bin) → Fin 4096 → Bin

/-- FFT_EPS, the accuracy bound of R97. The spec names no number type for it; the model takes a real number, so that every
bound the real inequality of R97 can have is admitted (DEDUCED, log 9). -/
noncomputable opaque Config.fftEps : ℝ

/-! ## Free values -/

/-- The unspecified byte at an offset after power-on reset: a draw that stays until the byte is written (R49). Log 4. -/
opaque Config.powerOnByte : Nat → Byte

/-- The fresh draw for a byte of an aborted command's write set (R140), by the number of the abort and the byte's
offset. Log 5. -/
opaque Config.abortByte : Nat → Nat → Byte

end Sys2Proof
end

