-- ==== Sys2Proof/Syntax.lean ====
section
/-! DEFINITION. The eight commands of the opcode map (spec/30_encoding.md R69), one constructor a row of
spec/opcode_table.json. -/

namespace Sys2Proof

/-- The audio channels (spec/00_scope.md R16): 0 is left, 1 is right. -/
inductive Channel where
  | left
  | right
deriving DecidableEq, Repr

/-- A command (R69). `count` and `slot` are the unsigned fields COUNT and SLOT, without scaling or offset (R67). -/
inductive Instr where
  /-- `NOP` (R85). -/
  | nop
  /-- `PAD ch` (R89). -/
  | pad (ch : Channel)
  /-- `CLR ch` (R104). -/
  | clr (ch : Channel)
  /-- `FWD ch, count, slot` (R99). -/
  | fwd (ch : Channel) (count slot : Nat)
  /-- `INV ch, count, slot` (R105). -/
  | inv (ch : Channel) (count slot : Nat)
  /-- `PACK count` (R114). -/
  | pack (count : Nat)
  /-- `UNPACK` (R117). -/
  | unpack
  /-- `FINISH` (R108). -/
  | finish
deriving DecidableEq, Repr

end Sys2Proof
end

