-- ==== Sys2Proof/Machine/State.lean ====
section
/-! DEFINITION. The state of the MDX-STFT engine as plain data, and its value after power-on reset
(spec/10_state.md, spec/70_reset_and_hazards.md R139). -/

namespace Sys2Proof.Machine

/-! ## The data the state is made of -/

/-- The block's memory: (byte offset from BASE, byte) pairs. A listed byte is one the host or a command has written; an
unlisted byte still holds its power-on draw (R49). Log 4. -/
abbrev Memory := List Host.Cell

/-- The canonical form of a memory: the offsets strictly rise. An unlisted offset holds no written byte, so no entry can
equal what it holds, and equal memories are equal data. Log 4. -/
abbrev Memory.wf (m : Memory) : Prop := m.Pairwise (fun a b => a.1 < b.1)

/-- The values latched when a command is accepted (R45). -/
structure Snapshot where
  /-- `S.CMD` -/
  cmd : Word
  /-- `S.LEN` -/
  len : Word
  /-- `S.HOP` -/
  hop : BitVec 13
  /-- `S.NORM` -/
  norm : Word
  /-- `S.FRAMEBASE` -/
  framebase : Word
deriving DecidableEq, Repr

/-- What a host transaction asks for (R50). -/
inductive Access where
  | read
  | write (v : Word)
deriving DecidableEq, Repr

/-- A host bus transaction (R50): the byte offset from BASE, in [0, 2^31), and the access size in bytes. Only size 4 is
served (R56), so the data of a write of another size is never looked at. Log 3. -/
structure Txn where
  access : Access
  addr : BitVec 31
  size : Nat
deriving DecidableEq, Repr

/-- The port's answer to one transaction (R50). -/
inductive Response where
  /-- OK to a write. -/
  | ok
  /-- OK to a read, with the word read. -/
  | data (v : Word)
  /-- ERROR: a bus error, which carries no data (R125). -/
  | error
deriving DecidableEq, Repr

/-- The two agents (R75). -/
inductive Agent where
  | host
  | engine
deriving DecidableEq, Repr

/-- The command errors (R122). `NONE` is the absence of an error. -/
inductive CmdError where
  | illegalCmd
  | batchTooLarge
  | sizeMismatch
  | lenTooShort
  | capacity
  | badHop
  | badNorm
deriving DecidableEq, Repr

/-! ## The state -/

/-- Everything the block holds (R21, R38, R45), and after it the model's own four fields. -/
structure State where
  /-- `CTRL.IRQEN` (R25). -/
  irqen : Bool
  /-- `STATUS.DONE` (R26). -/
  done : Bool
  /-- `STATUS.ERR` (R26). -/
  err : Bool
  /-- `STATUS.OVR` (R26). -/
  ovr : Bool
  /-- `ERRCODE[7:0]` (R27). -/
  errcode : BitVec 8
  /-- `ERRINFO` (R28). -/
  errinfo : Word
  /-- `CMD` (R29). -/
  cmd : Word
  /-- `LEN` (R30). -/
  len : Word
  /-- `HOP[12:0]` (R31). -/
  hop : BitVec 13
  /-- `NORM` (R32). -/
  norm : Word
  /-- `FRAMEBASE` (R33). -/
  framebase : Word
  /-- `CMDCOUNT` (R35). -/
  cmdcount : Word
  /-- The snapshot of the command in flight (R45). `STATUS.BUSY` is 1 exactly while one is held. Log 1. -/
  inFlight : Option Snapshot
  /-- `SIG`, `OLA`, `SPEC`, `TEN` and `OUT` (R38), by byte offset (R51). -/
  mem : Memory
  /-- The model's own: the transactions the host has issued and not seen answered, oldest first (R50). Log 3. -/
  port : List Txn
  /-- The model's own: the port's answers so far, newest first (R50). Log 3. -/
  responses : List Response
  /-- The model's own: the agent preferred at each coming step (R75). Log 2. -/
  turns : List Agent
  /-- The model's own: how many commands were aborted so far, the number of the next fresh draw (R140). Log 5. -/
  draws : Nat
deriving DecidableEq, Repr

/-- The reasons to stop with a fault: none. The block takes no trap (R130), a command error is recorded in registers and
the block goes on (R124), and a bus error is a response on the port (R125); all three are next states. Having no
constructor is safe: no step can end here. Log 18. -/
inductive Fault where
deriving DecidableEq, Repr

/-- The reasons to refuse. -/
inductive Refusal where
  /-- Raised by no arm: every command has its meaning. Raised, it would be safe: the machine stops. -/
  | notModelled (mnemonic : String)
deriving DecidableEq, Repr

/-- The block right after power-on reset (R139): every register at the reset value of R21, no snapshot held, every memory
byte an unspecified draw (R49), nothing on the port. The values of the model's own fields are log 17's. -/
def State.reset : State where
  irqen := false
  done := false
  err := false
  ovr := false
  errcode := 0x00#8
  errinfo := 0x00000000#32
  cmd := 0x00000000#32
  len := 0x00000000#32
  hop := 1024#13
  norm := 0x3FC00000#32
  framebase := 0x00000000#32
  cmdcount := 0x00000000#32
  inFlight := none
  mem := []
  port := []
  responses := []
  turns := []
  draws := 0

end Sys2Proof.Machine
end

