-- ==== Sys2Proof/Machine/Ops.lean ====
section
/-! DEFINITION. The named operations over the block's memories and registers: the address of every memory word, reading
and writing words, accepting a command, completing it, and completing it with an error. Completing with an error is what
this block has for taking an exception (spec/60_exceptions.md R123, R130). -/

namespace Sys2Proof.Machine

/-! ## Regions (spec/20_memory.md R51) -/

/-- The regions of the address map. -/
inductive Region where
  | registers
  | win
  | ten
  | spec (c : Channel)
  | sig (c : Channel)
  | ola (c : Channel)
  | out
deriving DecidableEq, Repr

/-- All regions, in the order of the table of R51. -/
def Region.all : List Region :=
  [.registers, .win, .ten, .spec .left, .spec .right, .sig .left, .sig .right, .ola .left, .ola .right, .out]

/-- The `start` column. -/
def Region.start : Region → Nat
  | .registers => 0x00000000
  | .win => 0x00010000
  | .ten => 0x00800000
  | .spec .left => 0x01000000
  | .spec .right => 0x01800000
  | .sig .left => 0x10000000
  | .sig .right => 0x20000000
  | .ola .left => 0x30000000
  | .ola .right => 0x40000000
  | .out => 0x50000000

/-- The `end (exclusive)` column. -/
def Region.stop : Region → Nat
  | .registers => 0x00001000
  | .win => 0x00014000
  | .ten => 0x01000000
  | .spec .left => 0x01800000
  | .spec .right => 0x02000000
  | .sig .left => 0x20000000
  | .sig .right => 0x30000000
  | .ola .left => 0x40000000
  | .ola .right => 0x50000000
  | .out => 0x70000000

/-- The `populated words` column, for a block with SIG_CAP = `cap`. -/
def Region.words (cap : Nat) : Region → Nat
  | .registers => 1024
  | .win => 4096
  | .ten => Config.tensorWords
  | .spec _ => Config.tensorWords
  | .sig _ => cap
  | .ola _ => cap
  | .out => 2 * (cap - 4096)

/-- The byte offset of word `i` of a region (R51). -/
def Region.wordAddr (r : Region) (i : Nat) : Nat := r.start + 4 * i

/-- The number of a region's word at a byte offset (R51). -/
def Region.wordIndex (r : Region) (a : Nat) : Nat := (a - r.start) / 4

/-- The host may write the region's words: all memories but `WIN` (R51, R53). -/
def Region.isMemory : Region → Bool
  | .registers => false
  | .win => false
  | .ten => true
  | .spec _ => true
  | .sig _ => true
  | .ola _ => true
  | .out => true

/-- The region whose populated words hold the byte offset `a`; `none` is an unmapped offset (R51, R54). -/
def regionOf (cap a : Nat) : Option Region :=
  Region.all.find? fun r => r.start ≤ a && a < r.stop && r.wordIndex a < r.words cap

/-! ## Bytes -/

/-- Byte lane `k` of a word: bits 8k+7 .. 8k (R55). -/
def byteLane (v : Word) (k : Nat) : Byte := v.extractLsb' (8 * k) 8

/-- A word from its four byte lanes, lane 0 lowest (R55). -/
def wordOfLanes (lane : Nat → Byte) : Word := lane 3 ++ lane 2 ++ lane 1 ++ lane 0

/-- The byte written last at an offset, or `none` where nothing was written since power-on. -/
def Memory.lookup : Memory → Nat → Option Byte
  | [], _ => none
  | (k, v) :: rest, a => if k = a then some v else Memory.lookup rest a

/-- What an offset reads as: the byte written last, or the offset's power-on draw (R49). Log 4. -/
def Memory.byte (m : Memory) (a : Nat) : Byte := (m.lookup a).getD (Config.powerOnByte a)

/-- The cells of the `n` offsets from `a` on, offset `x` holding `g x`. -/
def Memory.cellsFrom (g : Nat → Byte) (a : Nat) : Nat → Memory
  | 0 => []
  | n + 1 => (a, g a) :: Memory.cellsFrom g (a + 1) n

/-- Writes the `n` bytes from offset `lo` on, offset `x` taking `g x`. -/
def Memory.writeBytes (m : Memory) (lo n : Nat) (g : Nat → Byte) : Memory :=
  m.filter (fun c => c.1 < lo) ++ Memory.cellsFrom g lo n ++ m.filter (fun c => lo + n ≤ c.1)

/-! ## Words -/

/-- The word at a byte offset, little-endian (R55). -/
def Memory.word (m : Memory) (a : Nat) : Word := wordOfLanes fun k => m.byte (a + k)

/-- Writes the `n` words from offset `lo` on, word `i` taking `f i`. -/
def Memory.writeWords (m : Memory) (lo n : Nat) (f : Nat → Word) : Memory :=
  m.writeBytes lo (4 * n) fun x => byteLane (f ((x - lo) / 4)) ((x - lo) % 4)

/-- Writes the word at a byte offset (R53). -/
def Memory.writeWord (m : Memory) (a : Nat) (v : Word) : Memory := m.writeWords a 1 fun _ => v

/-- Word `i` of a region, `M[i]` of R11. -/
def Memory.get (m : Memory) (r : Region) (i : Nat) : Word := m.word (r.wordAddr i)

/-- `M[i] <- v` (R11). -/
def Memory.set (m : Memory) (r : Region) (i : Nat) (v : Word) : Memory := m.writeWord (r.wordAddr i) v

/-- `M[first + i] <- f i` for i in [0, n), all from values of the memory before. -/
def Memory.setRange (m : Memory) (r : Region) (first n : Nat) (f : Nat → Word) : Memory :=
  m.writeWords (r.wordAddr first) n f

/-! ## Spectrum and tensor words (R42, R43) -/

/-- The number of the real word of bin `b` of slot `slot` (R42). -/
def specWord (slot b : Nat) : Nat := (slot * 4096 + b) * 2

/-- `SPEC[c][slot][b]` (R42). -/
def Memory.specBin (m : Memory) (c : Channel) (slot b : Nat) : Bin where
  re := m.get (.spec c) (specWord slot b)
  im := m.get (.spec c) (specWord slot b + 1)

/-- `index(c, f, t)` of the tensor (R14). -/
def tensorIndex (c f t : Nat) : Nat := c * Config.tensorPlane + f * 256 + t

/-! ## The protocol of a command -/

/-- `STATUS.BUSY`: a command is in flight, that is, a snapshot is held (R26, R45). Log 1. -/
def State.busy (s : State) : Bool := s.inFlight.isSome

/-- The snapshot an acceptance of the word `v` latches (R45, R76). -/
def State.latch (s : State) (v : Word) : Snapshot where
  cmd := v
  len := s.len
  hop := s.hop
  norm := s.norm
  framebase := s.framebase

/-- Acceptance of the command word `v` (R76). -/
def State.accept (s : State) (v : Word) : State :=
  { s with cmd := v, inFlight := some (s.latch v) }

/-- Completion (R80): `BUSY` <- 0, `DONE` <- 1, `CMDCOUNT` + 1 modulo 2^32. -/
def State.complete (s : State) : State :=
  { s with inFlight := none, done := true, cmdcount := s.cmdcount + 1 }

/-- The code of a command error (R122). -/
def CmdError.code : CmdError → BitVec 8
  | .illegalCmd => 1
  | .batchTooLarge => 2
  | .sizeMismatch => 3
  | .lenTooShort => 4
  | .capacity => 5
  | .badHop => 6
  | .badNorm => 7

/-- The record of an error in `ERR`, `ERRCODE` and `ERRINFO`: kept only while `ERR` is 0 (R81, R124). -/
def State.recordError (s : State) (e : CmdError) (word : Word) : State :=
  if s.err then s else { s with err := true, errcode := e.code, errinfo := word }

/-- Completion with an error (R81, R123): the record of the error, then completion; no memory word is written. -/
def State.completeWithError (s : State) (e : CmdError) (word : Word) : State :=
  (s.recordError e word).complete

/-- The host's acknowledgement of an error, which stands for a return from it (R26, R131): `ERR`, `ERRCODE` and `ERRINFO`
become 0. -/
def State.clearError (s : State) : State := { s with err := false, errcode := 0, errinfo := 0 }

end Sys2Proof.Machine
end

