-- ==== Sys2Proof/Machine/Flags.lean ====
section
/-! DEFINITION. The flags: the words of `STATUS` and `CTRL`, what a write of them does, and the interrupt line
(spec/10_state.md R25, R26; spec/60_exceptions.md R127). No command sets a flag from its data (R37). -/

namespace Sys2Proof.Machine

/-- The word `STATUS` reads as: bits 3:0 are OVR, ERR, DONE, BUSY, bits 31:4 are 0 (R26). -/
def State.statusWord (s : State) : Word :=
  0#28 ++ BitVec.ofBool s.ovr ++ BitVec.ofBool s.err ++ BitVec.ofBool s.done ++ BitVec.ofBool s.busy

/-- A write of `STATUS` (R26): each 1 in bits 1, 2, 3 clears DONE, ERR, OVR; clearing ERR also clears `ERRCODE` and
`ERRINFO`. BUSY and the reserved bits ignore it. -/
def State.writeStatus (s : State) (v : Word) : State :=
  let cleared := if v.getLsbD 2 then s.clearError else s
  { cleared with done := s.done && !v.getLsbD 1, ovr := s.ovr && !v.getLsbD 3 }

/-- The word `CTRL` reads as: bit 1 is IRQEN, all others 0 (R25). -/
def State.ctrlWord (s : State) : Word := 0#30 ++ BitVec.ofBool s.irqen ++ 0#1

/-- A write of `CTRL` without a soft reset (R25): IRQEN takes bit 1. -/
def State.writeIrqen (s : State) (v : Word) : State := { s with irqen := v.getLsbD 1 }

/-- The interrupt output `irq` = CTRL.IRQEN AND STATUS.DONE (R127). -/
def State.irq (s : State) : Bool := s.irqen && s.done

end Sys2Proof.Machine
end

