-- ==== Sys2Proof/WellFormed.lean ====
section
/-! DEFINITION. Which commands have an encoding: each field inside its width (spec/30_encoding.md R66, R71, R72). -/

namespace Sys2Proof

/-- Every field fits its width: COUNT 9 bits, SLOT 8 bits. A count of 257 to 511 is well formed: it "encodes legally" and
fails when the command runs (R67, R72). -/
def Instr.wellFormed : Instr → Bool
  | .nop => true
  | .pad _ => true
  | .clr _ => true
  | .fwd _ count slot => count < 512 && slot < 256
  | .inv _ count slot => count < 512 && slot < 256
  | .pack count => count < 512
  | .unpack => true
  | .finish => true

end Sys2Proof
end

