-- ==== Sys2Proof/Decode.lean ====
section
/-! DEFINITION. The decoder of a command word, total on every word and rejecting by name, and after it the encoder
(spec/30_encoding.md R65 to R71). -/

namespace Sys2Proof

/-! ## Channels (R16, R67) -/

/-- The number of a channel (R16). -/
def Channel.index : Channel → Nat
  | .left => 0
  | .right => 1

/-- The channel an index selects: index 0 is left, every other index right. -/
def Channel.ofIndex : Nat → Channel
  | 0 => .left
  | _ + 1 => .right

/-! ## The fields of a command word (R66) -/

/-- `OP`, bits 31:28. -/
def CmdWord.op (w : Word) : Nat := (w.extractLsb 31 28).toNat
/-- `RSV`, bits 27:18. -/
def CmdWord.rsv (w : Word) : Nat := (w.extractLsb 27 18).toNat
/-- `CH`, bit 17. -/
def CmdWord.ch (w : Word) : Nat := (w.extractLsb 17 17).toNat
/-- `COUNT`, bits 16:8. -/
def CmdWord.count (w : Word) : Nat := (w.extractLsb 16 8).toNat
/-- `SLOT`, bits 7:0. -/
def CmdWord.slot (w : Word) : Nat := (w.extractLsb 7 0).toNat

/-- Why a word is illegal (R70). -/
inductive DecodeError where
  /-- `OP` is 8 to 15. -/
  | reservedOpcode
  /-- `RSV` is not zero. -/
  | reservedBits
  /-- a field that the row of its `OP` marks 0 is not zero. -/
  | nonzeroField
deriving DecidableEq, Repr

/-- The command a word selects, or why it selects none (R69, R70). -/
def decode (w : Word) : Except DecodeError Instr :=
  let ch := CmdWord.ch w
  let count := CmdWord.count w
  let slot := CmdWord.slot w
  if 8 ≤ CmdWord.op w then .error .reservedOpcode
  else if CmdWord.rsv w ≠ 0 then .error .reservedBits
  else match CmdWord.op w with
    | 0 => if ch = 0 ∧ count = 0 ∧ slot = 0 then .ok .nop else .error .nonzeroField
    | 1 => if count = 0 ∧ slot = 0 then .ok (.pad (Channel.ofIndex ch)) else .error .nonzeroField
    | 2 => if count = 0 ∧ slot = 0 then .ok (.clr (Channel.ofIndex ch)) else .error .nonzeroField
    | 3 => .ok (.fwd (Channel.ofIndex ch) count slot)
    | 4 => .ok (.inv (Channel.ofIndex ch) count slot)
    | 5 => if ch = 0 ∧ slot = 0 then .ok (.pack count) else .error .nonzeroField
    | 6 => if ch = 0 ∧ count = 0 ∧ slot = 0 then .ok .unpack else .error .nonzeroField
    | 7 => if ch = 0 ∧ count = 0 ∧ slot = 0 then .ok .finish else .error .nonzeroField
    | _ => .error .reservedOpcode

/-- The instruction the decoder reads from an instruction of `nbits` bits whose bits are `w`, the bits above them zero.
Every command is one 32-bit word (R65), so bit 0 of `w` is bit 0 of the command word. -/
def decodeTableWord (nbits w : Nat) : Option Instr :=
  match decode (BitVec.ofNat 32 (w % 2 ^ nbits)) with
  | .ok i => some i
  | .error _ => none

/-! ## The encoder (R71) -/

/-- `encode(op, ch, count, slot)` of R71. Outside the domain R71 gives it each field is cut to its width (DESIGN CHOICE,
log 22). -/
def encodeFields (op : Nat) (ch count slot : Nat) : Word :=
  BitVec.ofNat 4 op ++ 0#10 ++ BitVec.ofNat 1 ch ++ BitVec.ofNat 9 count ++ BitVec.ofNat 8 slot

/-- The command word of a command (R69, R72). -/
def encode : Instr → Word
  | .nop => encodeFields 0 0 0 0
  | .pad ch => encodeFields 1 ch.index 0 0
  | .clr ch => encodeFields 2 ch.index 0 0
  | .fwd ch count slot => encodeFields 3 ch.index count slot
  | .inv ch count slot => encodeFields 4 ch.index count slot
  | .pack count => encodeFields 5 0 count 0
  | .unpack => encodeFields 6 0 0 0
  | .finish => encodeFields 7 0 0 0

/-! ## The rows of the opcode map (R69) -/

/-- The `mask` column of a command's row. -/
def Instr.rowMask : Instr → Word
  | .nop => 0xFFFFFFFF#32
  | .pad _ => 0xFFFDFFFF#32
  | .clr _ => 0xFFFDFFFF#32
  | .fwd _ _ _ => 0xFFFC0000#32
  | .inv _ _ _ => 0xFFFC0000#32
  | .pack _ => 0xFFFE00FF#32
  | .unpack => 0xFFFFFFFF#32
  | .finish => 0xFFFFFFFF#32

/-- The `match` column of a command's row. -/
def Instr.rowMatch : Instr → Word
  | .nop => 0x00000000#32
  | .pad _ => 0x10000000#32
  | .clr _ => 0x20000000#32
  | .fwd _ _ _ => 0x30000000#32
  | .inv _ _ _ => 0x40000000#32
  | .pack _ => 0x50000000#32
  | .unpack => 0x60000000#32
  | .finish => 0x70000000#32

end Sys2Proof
end

