-- ==== Sys2Proof/Machine/Float.lean ====
section
/-! DEFINITION. The binary32 operations of spec/00_scope.md R10, computed exactly in the integers and rounded once.
A finite value is a whole number of units of 2^-149, the least subnormal, so every sum is a whole number of units and
every product and quotient a ratio of two. R10 takes the special cases from IEEE 754; log 11. -/

namespace Sys2Proof.Machine

/-! ## The parts of a word -/

/-- The sign bit. -/
def F32.sign (w : Word) : Bool := w.msb
/-- The exponent field, bits 30:23. -/
def F32.expField (w : Word) : Nat := (w.extractLsb 30 23).toNat
/-- The fraction field, bits 22:0. -/
def F32.fracField (w : Word) : Nat := (w.extractLsb 22 0).toNat

def F32.isNaN (w : Word) : Bool := F32.expField w == 255 && F32.fracField w != 0
def F32.isInf (w : Word) : Bool := F32.expField w == 255 && F32.fracField w == 0
def F32.isZero (w : Word) : Bool := F32.expField w == 0 && F32.fracField w == 0
def F32.isFinite (w : Word) : Bool := F32.expField w != 255

/-- The magnitude of a finite word in units of 2^-149. -/
def F32.units (w : Word) : Nat :=
  if F32.expField w = 0 then F32.fracField w
  else (2 ^ 23 + F32.fracField w) * 2 ^ (F32.expField w - 1)

/-- The value of a finite word in units of 2^-149. -/
def F32.signedUnits (w : Word) : Int :=
  if F32.sign w then -(F32.units w : Int) else (F32.units w : Int)

/-- The canonical quiet NaN, the NaN of every result (R10). -/
abbrev F32.canonicalNaN : Word := 0x7FC00000#32

/-- A word from its sign and its lower 31 bits. -/
def F32.ofMagnitude (sign : Bool) (bits : Nat) : Word := BitVec.ofBool sign ++ BitVec.ofNat 31 bits

/-- The lower 31 bits of infinity. -/
abbrev F32.infBits : Nat := 0x7F800000

/-! ## Rounding -/

/-- `num / den` to the nearest whole number, ties to even. -/
def F32.nearestEven (num den : Nat) : Nat :=
  let quotient := num / den
  let twice := 2 * (num % den)
  if den < twice ∨ (twice = den ∧ quotient % 2 = 1) then quotient + 1 else quotient

/-- How many binary places the last place of the result lies above one unit: 0 for subnormals and the least normal
exponent. -/
def F32.lastPlace (num den : Nat) : Nat := Nat.log2 (num / den) - 23

/-- `rne` of the magnitude `num / den` units: the lower 31 bits of the nearest binary32, ties to even, gradual underflow,
overflow to infinity (R10). The bits of `m` last places at place `e` are `e * 2^23 + m`, also where `m` carries into the
next exponent. -/
def F32.roundUnits (num den : Nat) : Nat :=
  let place := F32.lastPlace num den
  min (place * 2 ^ 23 + F32.nearestEven num (den * 2 ^ place)) F32.infBits

/-! ## The operations (R10) -/

/-- `fneg`: bit 31 inverted, the others unchanged, for every word. -/
def F32.fneg (a : Word) : Word := a ^^^ 0x80000000#32

/-- `fmul` (R10). -/
def F32.fmul (a b : Word) : Word :=
  let sign := F32.sign a ^^ F32.sign b
  if F32.isNaN a || F32.isNaN b then F32.canonicalNaN
  else if (F32.isInf a && F32.isZero b) || (F32.isZero a && F32.isInf b) then F32.canonicalNaN
  else if F32.isInf a || F32.isInf b then F32.ofMagnitude sign F32.infBits
  else F32.ofMagnitude sign (F32.roundUnits (F32.units a * F32.units b) (2 ^ 149))

/-- `fdiv` (R10). -/
def F32.fdiv (a b : Word) : Word :=
  let sign := F32.sign a ^^ F32.sign b
  if F32.isNaN a || F32.isNaN b then F32.canonicalNaN
  else if (F32.isInf a && F32.isInf b) || (F32.isZero a && F32.isZero b) then F32.canonicalNaN
  else if F32.isInf a || F32.isZero b then F32.ofMagnitude sign F32.infBits
  else if F32.isInf b then F32.ofMagnitude sign 0
  else F32.ofMagnitude sign (F32.roundUnits (F32.units a * 2 ^ 149) (F32.units b))

/-- `fadd` (R10). An exact sum of zero is +0, except that -0 and -0 give -0. -/
def F32.fadd (a b : Word) : Word :=
  let sum := F32.signedUnits a + F32.signedUnits b
  if F32.isNaN a || F32.isNaN b then F32.canonicalNaN
  else if F32.isInf a && F32.isInf b && (F32.sign a ^^ F32.sign b) then F32.canonicalNaN
  else if F32.isInf a then a
  else if F32.isInf b then b
  else if sum = 0 then F32.ofMagnitude (F32.sign a && F32.sign b) 0
  else F32.ofMagnitude (decide (sum < 0)) (F32.roundUnits sum.natAbs 1)

end Sys2Proof.Machine
end

