-- ==== Sys2Proof/Machine/Operands.lean ====
section
/-! DEFINITION. The operands of a command: its fields and the snapshot (spec/30_encoding.md R67, R68), the checks every
command passes before it has an effect (spec/40_command_common.md R79), and its write set (spec/70_reset_and_hazards.md
R140). -/

namespace Sys2Proof.Machine

/-! ## Implicit operands (R68) -/

/-- The channel length L as a natural number (R9, R68). -/
def Snapshot.length (sn : Snapshot) : Nat := sn.len.toNat

/-- The offset of frame FRAMEBASE + k, in the unbounded naturals (R9, R90). -/
def Snapshot.frameOffset (sn : Snapshot) (k : Nat) : Nat := (sn.framebase.toNat + k) * sn.hop.toNat

/-! ## Which command a check of R79 applies to -/

/-- COUNT and SLOT of a command that has a batch: rows `BATCH_TOO_LARGE` of R79; the slot of `PACK` is 0. -/
def batchOperands : Instr → Option (Nat × Nat)
  | .nop => none
  | .pad _ => none
  | .clr _ => none
  | .fwd _ count slot => some (count, slot)
  | .inv _ count slot => some (count, slot)
  | .pack count => some (count, 0)
  | .unpack => none
  | .finish => none

/-- The command uses the padded channel: row `CAPACITY` of R79. -/
def needsChannel : Instr → Bool
  | .nop => false
  | .pad _ => true
  | .clr _ => true
  | .fwd _ _ _ => true
  | .inv _ _ _ => true
  | .pack _ => false
  | .unpack => false
  | .finish => true

/-- COUNT of a command that reads frames: rows `BAD_HOP` and `SIZE_MISMATCH` of R79. -/
def frameOperands : Instr → Option Nat
  | .nop => none
  | .pad _ => none
  | .clr _ => none
  | .fwd _ count _ => some count
  | .inv _ count _ => some count
  | .pack _ => none
  | .unpack => none
  | .finish => none

/-- The command is `PAD`: row `LEN_TOO_SHORT` of R79. -/
def checksLength : Instr → Bool
  | .nop => false
  | .pad _ => true
  | .clr _ => false
  | .fwd _ _ _ => false
  | .inv _ _ _ => false
  | .pack _ => false
  | .unpack => false
  | .finish => false

/-- The command is `FINISH`: row `BAD_NORM` of R79. -/
def checksNorm : Instr → Bool
  | .nop => false
  | .pad _ => false
  | .clr _ => false
  | .fwd _ _ _ => false
  | .inv _ _ _ => false
  | .pack _ => false
  | .unpack => false
  | .finish => true

/-! ## The conditions of R79 -/

/-- Row 2: `count > 256`, or `slot + count > 256`. -/
def batchOverflows (count slot : Nat) : Bool := 256 < count || 256 < slot + count

/-- Row 3: `L + 4096 > SIG_CAP`. -/
def capacityExceeded (cap : Nat) (sn : Snapshot) : Bool := cap < sn.length + 4096

/-- Row 6: `count > 0` and `(S.FRAMEBASE + count - 1) * S.HOP > L`. -/
def lastFrameOutside (count : Nat) (sn : Snapshot) : Bool :=
  0 < count && sn.length < (sn.framebase.toNat + count - 1) * sn.hop.toNat

/-- Row 7: NORM is an infinity, a NaN, negative (with -0) or zero. -/
def normUnusable (norm : Word) : Bool :=
  F32.expField norm == 255 || norm.msb || norm.extractLsb 30 0 == 0

/-- Rows 2 to 7 of R79 for a legal command, for a block with SIG_CAP = `cap`: the first that holds, in the table's order
(R128). `none` is `NONE`. Row 1 is the decoder's refusal. -/
def validate (cap : Nat) (i : Instr) (sn : Snapshot) : Option CmdError :=
  if (batchOperands i).any fun b => batchOverflows b.1 b.2 then some .batchTooLarge
  else if needsChannel i && capacityExceeded cap sn then some .capacity
  else if (frameOperands i).isSome && sn.hop == 0 then some .badHop
  else if checksLength i && sn.length < 2048 then some .lenTooShort
  else if (frameOperands i).any fun count => lastFrameOutside count sn then some .sizeMismatch
  else if checksNorm i && normUnusable sn.norm then some .badNorm
  else none

/-- `validate` of R79 over a command word: row 1, `ILLEGAL_CMD`, for a word the decoder refuses. -/
def validateWord (cap : Nat) (sn : Snapshot) : Option CmdError :=
  match decode sn.cmd with
  | .error _ => some .illegalCmd
  | .ok i => validate cap i sn

/-! ## Write sets (R140) -/

/-- `count` words of a region from word `first` on. -/
structure WordRange where
  region : Region
  first : Nat
  count : Nat
deriving DecidableEq, Repr

/-- The write set of a command that passes validation, as R140 lists it. With `count` = 0, `FWD` and `INV` write nothing
(R99, R105; log 14). For `INV` it is the one range of R140, also where a hop above 4096 leaves gaps (log 13). -/
def writeSet (i : Instr) (sn : Snapshot) : List WordRange :=
  match i with
  | .nop => []
  | .pad ch => [⟨.sig ch, 0, 2048⟩, ⟨.sig ch, 2048 + sn.length, 2048⟩]
  | .clr ch => [⟨.ola ch, 0, sn.length + 4096⟩]
  | .fwd ch count slot => [⟨.spec ch, specWord slot 0, count * 8192⟩]
  | .inv ch count _ =>
    if count = 0 then []
    else [⟨.ola ch, sn.frameOffset 0, sn.frameOffset (count - 1) + 4096 - sn.frameOffset 0⟩]
  | .pack _ => [⟨.ten, 0, Config.tensorWords⟩]
  | .unpack => [⟨.spec .left, 0, Config.tensorWords⟩, ⟨.spec .right, 0, Config.tensorWords⟩]
  | .finish => [⟨.out, 0, 2 * sn.length⟩]

/-- The write set of the command in a snapshot: empty for one that fails validation (R140). -/
def writeSetOf (cap : Nat) (sn : Snapshot) : List WordRange :=
  match decode sn.cmd with
  | .error _ => []
  | .ok i => if (validate cap i sn).isSome then [] else writeSet i sn

end Sys2Proof.Machine
end

