-- ==== Sys2Proof/Machine/Reset.lean ====
section
/-! DEFINITION. The soft reset and the abort of a running command (spec/70_reset_and_hazards.md R140). -/

namespace Sys2Proof.Machine

/-- Every byte of a range of words takes the fresh draw of abort number `number` (R140). Log 5. -/
def Memory.redraw (number : Nat) (m : Memory) (r : WordRange) : Memory :=
  m.writeBytes (r.region.wordAddr r.first) (4 * r.count) (Config.abortByte number)

/-- The memory a soft reset leaves: every word of the write set of the running command takes an unspecified value, every
other word keeps its own (R140). -/
def State.memAfterAbort (cap : Nat) (s : State) : Memory :=
  match s.inFlight with
  | none => s.mem
  | some sn => (writeSetOf cap sn).foldl (Memory.redraw s.draws) s.mem

/-- The soft reset (R140): the running command is aborted without completing, every register takes its reset value, the
snapshot is discarded. The port and the schedule are not the block's registers and stay. -/
def State.softReset (cap : Nat) (s : State) : State :=
  { State.reset with
    mem := s.memAfterAbort cap
    draws := if s.busy then s.draws + 1 else s.draws
    port := s.port
    responses := s.responses
    turns := s.turns }

end Sys2Proof.Machine
end

