-- ==== Sys2Proof/Machine/Registers.lean ====
section
/-! DEFINITION. The register window: every register under its name and offset, its read and its write
(spec/10_state.md R21 to R36, spec/20_memory.md R52). -/

namespace Sys2Proof.Machine

/-- The registers of R21; every other word offset of the window is reserved (R36). -/
inductive Reg where
  | id
  | version
  | sigcap
  | ctrl
  | status
  | errcode
  | errinfo
  | cmd
  | len
  | hop
  | norm
  | framebase
  | nframes
  | cmdcount
  | reserved
deriving DecidableEq, Repr

/-- The register at a byte offset of the window (R21). -/
def regAt (offset : Nat) : Reg :=
  match offset with
  | 0x000 => .id
  | 0x004 => .version
  | 0x008 => .sigcap
  | 0x010 => .ctrl
  | 0x014 => .status
  | 0x018 => .errcode
  | 0x01C => .errinfo
  | 0x020 => .cmd
  | 0x024 => .len
  | 0x028 => .hop
  | 0x02C => .norm
  | 0x030 => .framebase
  | 0x034 => .nframes
  | 0x038 => .cmdcount
  | _ => .reserved

/-- The offset of a register (R21); for `reserved`, the first reserved offset. -/
def regOffset : Reg → Nat
  | .id => 0x000
  | .version => 0x004
  | .sigcap => 0x008
  | .ctrl => 0x010
  | .status => 0x014
  | .errcode => 0x018
  | .errinfo => 0x01C
  | .cmd => 0x020
  | .len => 0x024
  | .hop => 0x028
  | .norm => 0x02C
  | .framebase => 0x030
  | .nframes => 0x034
  | .cmdcount => 0x038
  | .reserved => 0x00C

/-- The number of frames of a padded channel of length `len` at hop `hop`; 0 at hop 0 (R34, R91). -/
def frameCount (len hop : Nat) : Nat := if hop = 0 then 0 else len / hop + 1

/-- What a read of a register returns; it has no side effect (R21 to R36, R57). -/
def regRead (cap : Nat) (s : State) : Reg → Word
  | .id => 0x4D445846#32
  | .version => 0x00010000#32
  | .sigcap => BitVec.ofNat 32 cap
  | .ctrl => s.ctrlWord
  | .status => s.statusWord
  | .errcode => s.errcode.zeroExtend 32
  | .errinfo => s.errinfo
  | .cmd => s.cmd
  | .len => s.len
  | .hop => s.hop.zeroExtend 32
  | .norm => s.norm
  | .framebase => s.framebase
  | .nframes => BitVec.ofNat 32 (frameCount s.len.toNat s.hop.toNat)
  | .cmdcount => s.cmdcount
  | .reserved => 0x00000000#32

/-- A write of `CMD`: accepted while idle (R76), dropped with OVR while busy (R77). -/
def State.writeCmd (s : State) (v : Word) : State :=
  if s.busy then { s with ovr := true } else s.accept v

/-- A write of `CTRL` (R25): bit 0 performs the soft reset and discards bit 1, else IRQEN takes bit 1. -/
def State.writeCtrl (cap : Nat) (s : State) (v : Word) : State :=
  if v.getLsbD 0 then s.softReset cap else s.writeIrqen v

/-- What a write of a register does; a read-only register or a reserved offset ignores it (R21 to R36, R52). -/
def regWrite (cap : Nat) (s : State) (v : Word) : Reg → State
  | .id => s
  | .version => s
  | .sigcap => s
  | .ctrl => s.writeCtrl cap v
  | .status => s.writeStatus v
  | .errcode => s
  | .errinfo => s
  | .cmd => s.writeCmd v
  | .len => { s with len := v }
  | .hop => { s with hop := v.extractLsb' 0 13 }
  | .norm => { s with norm := v }
  | .framebase => { s with framebase := v }
  | .nframes => s
  | .cmdcount => s
  | .reserved => s

end Sys2Proof.Machine
end

