-- ==== Sys2Proof/Machine/Window.lean ====
section
/-! DEFINITION. The window table `WIN` (spec/41_window_padder.md R86): a function of the index, fixed for the life of the
block (R39). Each entry is computed from 0.5 * (1 - cos(2*pi*n/4096)) = sin^2(pi*n/4096) to about 185 bits and then rounded
once to binary32; no exact entry lies nearer than that to a rounding boundary (DEDUCED, log 10). -/

namespace Sys2Proof.Machine

/-- 1 in fixed point with 192 fraction bits. -/
abbrev Window.one : Nat := 2 ^ 192

/-- pi in fixed point, rounded down. -/
abbrev Window.pi : Nat := 0x3243F6A8885A308D313198A2E03707344A4093822299F31D0

/-- The Taylor series of sin(x)/x in nested form from its `k`-th factor on, `fuel` factors deep, with `x2` = x^2. -/
def Window.sinc (x2 : Nat) : Nat → Nat → Nat
  | 0, _ => Window.one
  | fuel + 1, k =>
    Window.one - x2 * Window.sinc x2 fuel (k + 1) / Window.one / (2 * k * (2 * k + 1))

/-- sin^2(pi*m/4096) in fixed point, for m <= 1024, where the angle is at most pi/4. -/
def Window.sinSquared (m : Nat) : Nat :=
  let x := Window.pi * m / 4096
  let s := x * Window.sinc (x * x / Window.one) 24 1 / Window.one
  s * s / Window.one

/-- The window in fixed point over its rising half, n <= 2048; above the middle, sin^2 is 1 less that of the
complement. -/
def Window.rising (n : Nat) : Nat :=
  if n ≤ 1024 then Window.sinSquared n else Window.one - Window.sinSquared (2048 - n)

/-- `WIN[n]` for n in [0, 4096) (R86); symmetric about n = 2048 (R87). -/
def win (n : Nat) : Word :=
  F32.ofMagnitude false
    (F32.roundUnits (Window.rising (if n ≤ 2048 then n else 4096 - n) * 2 ^ 149) Window.one)

end Sys2Proof.Machine
end

