-- ==== Sys2Proof/Machine/Bus.lean ====
section
/-! DEFINITION. The host port (spec/20_memory.md R50 to R58, spec/60_exceptions.md R125): which transactions get a bus
error, which are held, and what the served ones do and answer. -/

namespace Sys2Proof.Machine

/-- Where an absolute address of the host bus falls in the block: its byte offset from BASE, or `none` where it does not
reach the block (R50). -/
def busOffset (absolute : Nat) : Option (BitVec 31) :=
  if Config.base ≤ absolute ∧ absolute < Config.base + 2 ^ 31 then some (BitVec.ofNat 31 (absolute - Config.base)) else none

/-- The host issues a transaction at an absolute bus address: the port takes it behind those already there, if it reaches
the block (R50). This is the input of the outside world. Log 3, log 7. -/
def State.issue (s : State) (access : Access) (absolute size : Nat) : State :=
  match busOffset absolute with
  | none => s
  | some offset => { s with port := s.port ++ [⟨access, offset, size⟩] }

/-- The region a transaction is served from; `none` is a bus error (R53, R125): a size other than 4, a misaligned or
unmapped offset, or a write to `WIN`. -/
def Txn.target (cap : Nat) (t : Txn) : Option Region :=
  if t.size ≠ 4 ∨ t.addr.toNat % 4 ≠ 0 then none
  else match regionOf cap t.addr.toNat, t.access with
    | some .win, .write _ => none
    | r, _ => r

/-- A transaction that is held while a command runs (R58): one served from a memory. A bus error and a register access
are never held (R52, R125). -/
def Txn.waits (cap : Nat) (t : Txn) (s : State) : Bool :=
  match Txn.target cap t with
  | none => false
  | some .registers => false
  | some _ => s.busy

/-- What a served read returns (R52, R53). -/
def readTarget (cap : Nat) (s : State) (a : Nat) : Region → Word
  | .registers => regRead cap s (regAt a)
  | .win => win (Region.win.wordIndex a)
  | r => s.mem.get r (r.wordIndex a)

/-- What a served write does (R52, R53). -/
def writeTarget (cap : Nat) (s : State) (a : Nat) (v : Word) : Region → State
  | .registers => regWrite cap s v (regAt a)
  | .win => s
  | r => { s with mem := s.mem.set r (r.wordIndex a) v }

/-- The response to a transaction that is not held (R50, R53, R125). -/
def Txn.response (cap : Nat) (t : Txn) (s : State) : Response :=
  match Txn.target cap t, t.access with
  | none, _ => .error
  | some r, .read => .data (readTarget cap s t.addr.toNat r)
  | some _, .write _ => .ok

/-- The state after a transaction that is not held: a bus error and a read change nothing (R53, R57, R125). -/
def Txn.effect (cap : Nat) (t : Txn) (s : State) : State :=
  match Txn.target cap t, t.access with
  | some r, .write v => writeTarget cap s t.addr.toNat v r
  | _, _ => s

/-- The host's step: the oldest transaction of the port leaves it, has its effect, and is answered (R50, R53). -/
def hostStep (cap : Nat) (s : State) : State :=
  match s.port with
  | [] => s
  | t :: rest =>
    let after := Txn.effect cap t { s with port := rest }
    { after with responses := Txn.response cap t s :: after.responses }

/-- A host step is enabled: a transaction is on the port and is not held (R75). -/
def hostEnabled (cap : Nat) (s : State) : Bool :=
  match s.port with
  | [] => false
  | t :: _ => !Txn.waits cap t s

end Sys2Proof.Machine
end

