-- ==== Sys2Proof/Machine/Command.lean ====
section
/-! DEFINITION. The execution every legal command shares: validation, then its effect and completion, or completion with
an error (spec/40_command_common.md R78 to R81). -/

namespace Sys2Proof.Machine

/-- The engine's step on a legal command `i` whose effect on the memories is `perform` (R78). With no command in flight
the engine's step is not enabled (R75) and nothing happens; log 15. -/
def runCommand (cap : Nat) (i : Instr) (perform : Snapshot → Memory → Memory) (s : State) : State :=
  match s.inFlight with
  | none => s
  | some sn =>
    match validate cap i sn with
    | some e => s.completeWithError e sn.cmd
    | none => State.complete { s with mem := perform sn s.mem }

end Sys2Proof.Machine
end

