-- ==== Sys2Proof/Machine/Codec.lean ====
section
/-! DEFINITION. The tensor codec: `PACK` and `UNPACK` (spec/44_tensor_codec.md R114, R117). Each word of the result is
given at once by the words of the source memory, which the command does not change; log 12. -/

namespace Sys2Proof.Machine

/-- The half of a spectrum bin that tensor channel `c` holds: 0 left.real, 1 left.imag, 2 right.real, 3 right.imag
(R43). -/
def tensorHalf (m : Memory) (c f t : Nat) : Word :=
  let bin := m.specBin (Channel.ofIndex (c / 2)) t f
  if c % 2 = 0 then bin.re else bin.im

/-- Word `k` of the tensor after `PACK count`: bin f of frame t for f in [3, 2048) and t in [0, count), else +0 (R114). -/
def packWord (count : Nat) (m : Memory) (k : Nat) : Word :=
  let c := k / Config.tensorPlane
  let f := k / 256 % 2048
  let t := k % 256
  if Config.lowestBin ≤ f ∧ t < count then tensorHalf m c f t else plusZero

/-- The effect of `PACK count` (R114). -/
def packMemory (count : Nat) (_ : Snapshot) (m : Memory) : Memory :=
  m.setRange .ten 0 Config.tensorWords (packWord count m)

/-- Bin `f` < 2048 of frame `t` of channel `c` as the tensor holds it (R117). -/
def tensorBin (m : Memory) (c : Channel) (f t : Nat) : Bin where
  re := m.get .ten (tensorIndex (2 * c.index) f t)
  im := m.get .ten (tensorIndex (2 * c.index + 1) f t)

/-- Bin `b` of slot `t` of channel `c` after `UNPACK` (R117): DC with imaginary part +0, bins 1 to 2047 copied, the
Nyquist bin +0, the upper half the conjugate mirror. -/
def unpackBin (m : Memory) (c : Channel) (t b : Nat) : Bin :=
  if b = 0 then ⟨(tensorBin m c 0 t).re, plusZero⟩
  else if b < 2048 then tensorBin m c b t
  else if b = 2048 then ⟨plusZero, plusZero⟩
  else ⟨(tensorBin m c (4096 - b) t).re, F32.fneg (tensorBin m c (4096 - b) t).im⟩

/-- Word `j` of `SPEC[c]` after `UNPACK`, in the order of R42. -/
def unpackWord (m : Memory) (c : Channel) (j : Nat) : Word :=
  let bin := unpackBin m c (j / 8192) (j / 2 % 4096)
  if j % 2 = 0 then bin.re else bin.im

/-- All 256 slots of one channel rebuilt from the tensor (R117). -/
def unpackChannel (c : Channel) (m : Memory) : Memory :=
  m.setRange (.spec c) 0 Config.tensorWords (unpackWord m c)

/-- The effect of `UNPACK`: the left channel, then the right (R117). -/
def unpackMemory (_ : Snapshot) (m : Memory) : Memory := unpackChannel .right (unpackChannel .left m)

/-- `PACK count` (R114). -/
def execPack (count : Nat) (s : State) : Host.Outcome State Fault Refusal :=
  .next (runCommand Config.sigCap (.pack count) (packMemory count) s)

/-- `UNPACK` (R117). -/
def execUnpack (s : State) : Host.Outcome State Fault Refusal :=
  .next (runCommand Config.sigCap .unpack unpackMemory s)

end Sys2Proof.Machine
end

