-- ==== Sys2Proof/Machine/Nop.lean ====
section
/-! DEFINITION. `NOP` (spec/40_command_common.md R85). -/

namespace Sys2Proof.Machine

/-- `NOP` completes without any other effect (R85). -/
def execNop (s : State) : Host.Outcome State Fault Refusal :=
  .next (runCommand Config.sigCap .nop (fun _ m => m) s)

end Sys2Proof.Machine
end

