-- ==== Sys2Proof/Machine/Transform.lean ====
section
/-! DEFINITION. The spectral transform: `FWD` and the inverse of one frame (spec/42_transform.md R95 to R100). Both take
the transform realisation as an argument; the commands give them the open parameters of Config. -/

namespace Sys2Proof.Machine

/-- A transform realisation (R95, R96). -/
abbrev Transform : Type := (Fin 4096 → Bin) → Fin 4096 → Bin

/-- The windowed frame at sample offset `o` of a channel: `z[n] = bin(fmul(WIN[n], SIG[ch][o + n]), +0)` (R99). -/
def windowedFrame (ch : Channel) (o : Nat) (m : Memory) (n : Fin 4096) : Bin where
  re := F32.fmul (win n.val) (m.get (.sig ch) (o + n.val))
  im := plusZero

/-- Word `j` of a spectrum in `SPEC` order: bin `j / 2`, its real part at even `j`, its imaginary part at odd `j` (R42). -/
def spectrumWord (x : Fin 4096 → Bin) (j : Nat) : Word :=
  let bin := x (Fin.ofNat 4096 (j / 2))
  if j % 2 = 0 then bin.re else bin.im

/-- One iteration of `FWD`: the frame at offset `o` into one slot (R99). -/
def forwardFrame (dft : Transform) (ch : Channel) (o slot : Nat) (m : Memory) : Memory :=
  m.setRange (.spec ch) (specWord slot 0) 8192 (spectrumWord (dft (windowedFrame ch o m)))

/-- The effect of `FWD ch, count, slot`: frames FRAMEBASE + k into slots slot + k, in ascending k (R99). -/
def fwdMemory (dft : Transform) (ch : Channel) (count slot : Nat) (sn : Snapshot) (m : Memory) : Memory :=
  (List.range count).foldl (fun m k => forwardFrame dft ch (sn.frameOffset k) (slot + k) m) m

/-- The inverse frame function: real part, division by 4096.0, then the window (R100). -/
def iframe (idft : Transform) (y : Fin 4096 → Bin) (n : Fin 4096) : Word :=
  F32.fmul (win n.val) (F32.fdiv (idft y n).re 0x45800000#32)

/-- `FWD ch, count, slot` (R99). -/
def execFwd (ch : Channel) (count slot : Nat) (s : State) : Host.Outcome State Fault Refusal :=
  .next (runCommand Config.sigCap (.fwd ch count slot) (fwdMemory Config.fwdDFT ch count slot) s)

end Sys2Proof.Machine
end

