-- ==== Sys2Proof/Machine/OverlapAdd.lean ====
section
/-! DEFINITION. The overlap-add accumulator: `CLR`, `INV` and `FINISH` (spec/43_overlap_add.md R104 to R108). -/

namespace Sys2Proof.Machine

/-- The effect of `CLR ch`: `OLA[ch][0 .. L + 4096) <- +0` (R104). -/
def clrMemory (ch : Channel) (sn : Snapshot) (m : Memory) : Memory :=
  m.setRange (.ola ch) 0 (sn.length + 4096) fun _ => plusZero

/-- One iteration of `INV`: the inverse frame of one slot added at sample offset `o` (R105). The frame's 4096 words are
distinct, so adding them at once is the inner loop of R105; log 12. -/
def addFrame (idft : Transform) (ch : Channel) (o slot : Nat) (m : Memory) : Memory :=
  let frame := iframe idft fun b => m.specBin ch slot b.val
  m.setRange (.ola ch) o 4096 fun n => F32.fadd (m.get (.ola ch) (o + n)) (frame (Fin.ofNat 4096 n))

/-- The effect of `INV ch, count, slot`: slots slot + k added at frames FRAMEBASE + k, in ascending k, each onto the sum
the one before left (R105, R106). -/
def invMemory (idft : Transform) (ch : Channel) (count slot : Nat) (sn : Snapshot) (m : Memory) : Memory :=
  (List.range count).foldl (fun m k => addFrame idft ch (sn.frameOffset k) (slot + k) m) m

/-- The effect of `FINISH`: `OUT[2i + c] <- fdiv(OLA[c][2048 + i], NORM)` for i in [0, L) and both channels (R108). -/
def finishMemory (sn : Snapshot) (m : Memory) : Memory :=
  m.setRange .out 0 (2 * sn.length) fun j =>
    F32.fdiv (m.get (.ola (Channel.ofIndex (j % 2))) (2048 + j / 2)) sn.norm

/-- `CLR ch` (R104). -/
def execClr (ch : Channel) (s : State) : Host.Outcome State Fault Refusal :=
  .next (runCommand Config.sigCap (.clr ch) (clrMemory ch) s)

/-- `INV ch, count, slot` (R105). -/
def execInv (ch : Channel) (count slot : Nat) (s : State) : Host.Outcome State Fault Refusal :=
  .next (runCommand Config.sigCap (.inv ch count slot) (invMemory Config.invDFT ch count slot) s)

/-- `FINISH` (R108). -/
def execFinish (s : State) : Host.Outcome State Fault Refusal :=
  .next (runCommand Config.sigCap .finish finishMemory s)

end Sys2Proof.Machine
end

