-- ==== Sys2Proof/Machine/Padder.lean ====
section
/-! DEFINITION. `PAD` (spec/41_window_padder.md R89). -/

namespace Sys2Proof.Machine

/-- The left pad: `SIG[ch][j] <- SIG[ch][4095 - j]` for j in [0, 2048) (R89). -/
def padLeft (ch : Channel) (m : Memory) : Memory :=
  m.setRange (.sig ch) 0 2048 fun j => m.get (.sig ch) (4095 - j)

/-- The right pad: `SIG[ch][2048 + L + j] <- SIG[ch][2047 + L - j]` for j in [0, 2048) (R89). -/
def padRight (ch : Channel) (length : Nat) (m : Memory) : Memory :=
  m.setRange (.sig ch) (2048 + length) 2048 fun j => m.get (.sig ch) (2047 + length - j)

/-- The effect of `PAD ch`: both reflections, in place. The words read and the words written are disjoint, so writing
each side at once is the loop of R89; log 12. -/
def padMemory (ch : Channel) (sn : Snapshot) (m : Memory) : Memory :=
  padRight ch sn.length (padLeft ch m)

/-- `PAD ch` (R89). -/
def execPad (ch : Channel) (s : State) : Host.Outcome State Fault Refusal :=
  .next (runCommand Config.sigCap (.pad ch) (padMemory ch) s)

end Sys2Proof.Machine
end

