-- ==== Sys2Proof/Machine/Dispatch.lean ====
section
/-! DEFINITION. The meaning of each command, one arm per constructor of Instr. -/

namespace Sys2Proof.Machine

def exec (i : Instr) (s : State) : Host.Outcome State Fault Refusal :=
  match i with
  | .nop => Sys2Proof.Machine.execNop s
  | .pad ch => Sys2Proof.Machine.execPad ch s
  | .clr ch => Sys2Proof.Machine.execClr ch s
  | .fwd ch count slot => Sys2Proof.Machine.execFwd ch count slot s
  | .inv ch count slot => Sys2Proof.Machine.execInv ch count slot s
  | .pack count => Sys2Proof.Machine.execPack count s
  | .unpack => Sys2Proof.Machine.execUnpack s
  | .finish => Sys2Proof.Machine.execFinish s

end Sys2Proof.Machine
end

