-- ==== Sys2Proof/Machine/Engine.lean ====
section
/-! DEFINITION. The engine's step and which agent moves next (spec/40_command_common.md R75, R78, R83). -/

namespace Sys2Proof.Machine

/-- The engine's step (R78): the command in flight is decoded and run; an illegal word completes with `ILLEGAL_CMD` (R70,
R81). With no command in flight the step is not enabled (R75). -/
def engineStep (s : State) : Host.Outcome State Fault Refusal :=
  match s.inFlight with
  | none => .next s
  | some sn =>
    match decode sn.cmd with
    | .error _ => .next (s.completeWithError .illegalCmd sn.cmd)
    | .ok i => exec i s

/-- The agent preferred at this step: the first of `turns`, and the engine once `turns` is used up (R75, R83). Log 2. -/
def preferredAgent (s : State) : Agent :=
  match s.turns with
  | [] => .engine
  | a :: _ => a

/-- The agent that moves: the preferred one if its step is enabled, else the other if its step is, else none (R75). -/
def nextAgent (cap : Nat) (s : State) : Option Agent :=
  match preferredAgent s with
  | .engine => if s.busy then some .engine else if hostEnabled cap s then some .host else none
  | .host => if hostEnabled cap s then some .host else if s.busy then some .engine else none

/-- The state with the turn of this step used up. -/
def State.afterTurn (s : State) : State := { s with turns := s.turns.tail }

end Sys2Proof.Machine
end

