-- ==== Sys2Proof/Machine/Step.lean ====
section
/-! DEFINITION. One step of the block and its host port, and the placing of a command where the next step runs it. -/

namespace Sys2Proof.Machine

/-- One step of one agent (R75, R129). When no agent's step is enabled the block holds its state (R138) and only the turn
is used up. -/
def step (s : State) : Host.Outcome State Fault Refusal :=
  match nextAgent Config.sigCap s with
  | none => .next s.afterTurn
  | some .engine => engineStep s.afterTurn
  | some .host => .next (hostStep Config.sigCap s.afterTurn)

/-- The command word `w` of `nbits` bits placed where the next step runs it: accepted as a host write of `CMD` would be
(R76), with the engine's turn next. The block fetches nothing (R20, R63); log 16. -/
def State.withFetchWord (s : State) (nbits w : Nat) : State :=
  { s.accept (BitVec.ofNat 32 (w % 2 ^ nbits)) with turns := .engine :: s.turns }

end Sys2Proof.Machine
end

