-- ==== Sys2Proof/Machine/Effects.lean ====
section
/-! DEFINITION. The effect of every command on the memories in one function, for statements over all commands. The step
does not use it. -/

namespace Sys2Proof.Machine

/-- `perform` of R78: what a command that passes validation does to the memories. -/
def effect : Instr → Snapshot → Memory → Memory
  | .nop => fun _ m => m
  | .pad ch => padMemory ch
  | .clr ch => clrMemory ch
  | .fwd ch count slot => fwdMemory Config.fwdDFT ch count slot
  | .inv ch count slot => invMemory Config.invDFT ch count slot
  | .pack count => packMemory count
  | .unpack => unpackMemory
  | .finish => finishMemory

/-- The bytes of a list of word ranges hold the offset `a`. -/
def inRanges (ranges : List WordRange) (a : Nat) : Bool :=
  ranges.any fun r => r.region.wordAddr r.first ≤ a && a < r.region.wordAddr r.first + 4 * r.count

end Sys2Proof.Machine
end

