-- ==== Sys2Proof/Machine/Pseudocode.lean ====
section
/-! DEFINITION. The pseudocode of the commands as the spec writes it: one word at a time, each loop in ascending order,
later iterations seeing the writes of earlier ones (spec/00_scope.md R13). The step does not run these: it runs the
one-pass effects of Padder, Transform, OverlapAdd and Codec, and statements say that the two are equal; log 12. -/

namespace Sys2Proof.Machine

/-- `for k in [lo, hi)` (R13). -/
def forLoop (lo hi : Nat) (body : Nat → Memory → Memory) (m : Memory) : Memory :=
  (List.range' lo (hi - lo)).foldl (fun m k => body k m) m

/-- `SPEC[c][slot][b] <- x` (R42): the real word, then the imaginary word. -/
def Memory.setBin (m : Memory) (c : Channel) (slot b : Nat) (x : Bin) : Memory :=
  (m.set (.spec c) (specWord slot b) x.re).set (.spec c) (specWord slot b + 1) x.im

/-- `perform(PAD ch)` (R89). -/
def padLoop (ch : Channel) (sn : Snapshot) (m : Memory) : Memory :=
  let left := forLoop 0 2048 (fun j m => m.set (.sig ch) j (m.get (.sig ch) (4095 - j))) m
  forLoop 0 2048
    (fun j m => m.set (.sig ch) (2048 + sn.length + j) (m.get (.sig ch) (2047 + sn.length - j))) left

/-- `perform(CLR ch)` (R104). -/
def clrLoop (ch : Channel) (sn : Snapshot) (m : Memory) : Memory :=
  forLoop 0 (sn.length + 4096) (fun i m => m.set (.ola ch) i plusZero) m

/-- `perform(FWD ch, count, slot)` (R99). -/
def fwdLoop (dft : Transform) (ch : Channel) (count slot : Nat) (sn : Snapshot) (m : Memory) : Memory :=
  forLoop 0 count
    (fun k m =>
      let x := dft (windowedFrame ch (sn.frameOffset k) m)
      forLoop 0 4096 (fun b m => m.setBin ch (slot + k) b (x (Fin.ofNat 4096 b))) m)
    m

/-- `perform(INV ch, count, slot)` (R105). -/
def invLoop (idft : Transform) (ch : Channel) (count slot : Nat) (sn : Snapshot) (m : Memory) : Memory :=
  forLoop 0 count
    (fun k m =>
      let o := sn.frameOffset k
      let r := iframe idft fun b => m.specBin ch (slot + k) b.val
      forLoop 0 4096
        (fun n m => m.set (.ola ch) (o + n) (F32.fadd (m.get (.ola ch) (o + n)) (r (Fin.ofNat 4096 n)))) m)
    m

/-- `perform(FINISH)` (R108). -/
def finishLoop (sn : Snapshot) (m : Memory) : Memory :=
  forLoop 0 sn.length
    (fun i m =>
      forLoop 0 2
        (fun c m =>
          m.set .out (2 * i + c) (F32.fdiv (m.get (.ola (Channel.ofIndex c)) (2048 + i)) sn.norm)) m)
    m

/-- `perform(PACK count)` (R114). -/
def packLoop (count : Nat) (m : Memory) : Memory :=
  let zeroed := forLoop 0 2097152 (fun k m => m.set .ten k plusZero) m
  forLoop 0 count
    (fun t m =>
      forLoop 3 2048
        (fun f m =>
          let m0 := m.set .ten (0 * 524288 + f * 256 + t) (m.specBin .left t f).re
          let m1 := m0.set .ten (1 * 524288 + f * 256 + t) (m0.specBin .left t f).im
          let m2 := m1.set .ten (2 * 524288 + f * 256 + t) (m1.specBin .right t f).re
          m2.set .ten (3 * 524288 + f * 256 + t) (m2.specBin .right t f).im) m)
    zeroed

/-- `perform(UNPACK)` (R117). -/
def unpackLoop (m : Memory) : Memory :=
  forLoop 0 2
    (fun i m =>
      let c := Channel.ofIndex i
      forLoop 0 256
        (fun t m =>
          let zeroed := forLoop 0 4096 (fun b m => m.setBin c t b ⟨plusZero, plusZero⟩) m
          let copied := forLoop 0 2048
            (fun f m => m.setBin c t f
              ⟨m.get .ten (2 * i * 524288 + f * 256 + t), m.get .ten ((2 * i + 1) * 524288 + f * 256 + t)⟩) zeroed
          let mirrored := forLoop 1 2048
            (fun f m => m.setBin c t (4096 - f)
              ⟨(m.specBin c t f).re, F32.fneg (m.specBin c t f).im⟩) copied
          let dc := mirrored.setBin c t 0 ⟨(mirrored.specBin c t 0).re, plusZero⟩
          dc.setBin c t 2048 ⟨plusZero, plusZero⟩) m)
    m

end Sys2Proof.Machine
end

