-- ==== Sys2Proof/Machine/Reference.lean ====
section
/-! DEFINITION. The exact arithmetic the spec measures the block against: rounding to binary32 as a relation on the reals
(spec/00_scope.md R10), the window (R86), the reference transforms and their accuracy (R94, R97), the overlap-add gain and
the interior (R109, R111). No step uses these; statements do. -/

namespace Sys2Proof.Machine

/-! ## Values and rounding (R10) -/

/-- The real number a finite word denotes. -/
noncomputable def F32.toReal (w : Word) : ℝ := (F32.signedUnits w : ℝ) / 2 ^ 149

/-- `w` is `rne(x)`: the nearest binary32 of `x`, of two equally near ones the one with an even last place, a signed
infinity from halfway past the largest finite value on, and with the sign of a nonzero `x` also where it is a zero (R10).
For `x` = 0 the relation leaves the sign of the zero open. -/
def IsRne (x : ℝ) (w : Word) : Prop :=
  if (2 : ℝ) ^ 128 - 2 ^ 103 ≤ x then w = 0x7F800000#32
  else if x ≤ -((2 : ℝ) ^ 128 - 2 ^ 103) then w = 0xFF800000#32
  else
    F32.isFinite w = true ∧
    (∀ v : Word, F32.isFinite v = true → |x - F32.toReal w| ≤ |x - F32.toReal v|) ∧
    (∀ v : Word, F32.isFinite v = true → F32.toReal v ≠ F32.toReal w →
      |x - F32.toReal v| = |x - F32.toReal w| → w.getLsbD 0 = false) ∧
    (0 < x → F32.sign w = false) ∧ (x < 0 → F32.sign w = true)

/-! ## The window (R86) -/

/-- The exact periodic Hann window (R86, R109). -/
noncomputable def hann (n : ℕ) : ℝ := 0.5 * (1 - Real.cos (2 * Real.pi * n / 4096))

/-! ## The reference transforms (R94, R97) -/

/-- The complex number a bin of finite words denotes. -/
noncomputable def Bin.toComplex (z : Bin) : ℂ := ⟨F32.toReal z.re, F32.toReal z.im⟩

/-- The unnormalized forward transform `DFT` (R94). -/
noncomputable def refDFT (z : Fin 4096 → ℂ) (k : Fin 4096) : ℂ :=
  ∑ n : Fin 4096, z n * Complex.exp (-2 * Real.pi * Complex.I * (k.val * n.val) / 4096)

/-- The unnormalized inverse transform `IDFT` (R94). -/
noncomputable def refIDFT (z : Fin 4096 → ℂ) (n : Fin 4096) : ℂ :=
  ∑ k : Fin 4096, z k * Complex.exp (2 * Real.pi * Complex.I * (k.val * n.val) / 4096)

/-- The 2-norm (R97). -/
noncomputable def norm2 (v : Fin 4096 → ℂ) : ℝ := Real.sqrt (∑ k : Fin 4096, ‖v k‖ ^ 2)

/-- The arguments for which R97 promises accuracy: all words finite, sum of moduli at most 2^100. -/
def InAccuracyRange (z : Fin 4096 → Bin) : Prop :=
  (∀ n, F32.isFinite (z n).re = true ∧ F32.isFinite (z n).im = true) ∧
  ∑ n : Fin 4096, ‖Bin.toComplex (z n)‖ ≤ (2 : ℝ) ^ 100

/-- The accuracy property of a realisation `t` of the reference `ref` (R97). Nothing is assumed of the realisations of
Config; a claim that needs this states it. Log 9. -/
def MeetsAccuracy (t : Transform) (ref : (Fin 4096 → ℂ) → Fin 4096 → ℂ) (eps : ℝ) : Prop :=
  ∀ z, InAccuracyRange z →
    (∀ k, F32.isFinite (t z k).re = true ∧ F32.isFinite (t z k).im = true) ∧
    norm2 (fun k => Bin.toComplex (t z k) - ref (fun n => Bin.toComplex (z n)) k)
      ≤ eps * norm2 (ref fun n => Bin.toComplex (z n))

/-- R97 for the two realisations of this block. -/
def TransformsMeetAccuracy : Prop :=
  MeetsAccuracy Config.fwdDFT refDFT Config.fftEps ∧ MeetsAccuracy Config.invDFT refIDFT Config.fftEps

/-! ## The overlap-add gain (R109, R111) -/

/-- `S_L,H(p)`: the sum of the squared window over the existing frames that cover padded position `p` (R109). -/
noncomputable def gain (length hop p : ℕ) : ℝ :=
  ∑ j ∈ Finset.range (frameCount length hop),
    if j * hop ≤ p ∧ p < j * hop + 4096 then hann (p - j * hop) ^ 2 else 0

/-- Output sample `i` is interior (R111). -/
def Interior (length hop i : ℕ) : Prop :=
  i < length ∧ 2048 ≤ i + hop ∧ 2048 + i ≤ (length / hop + 1) * hop

end Sys2Proof.Machine
end

