-- ==== Sys2Proof/Safety.lean ====
section
/-! DEFINITION. What counts as safe: the invariant of the block, and the duties of the host (spec/70_reset_and_hazards.md
R145 to R151), which the block does not check. -/

namespace Sys2Proof.Machine

/-! ## The invariant of the block -/

/-- The byte offset lies in a memory the host may write: never in the registers, in `WIN` or in an unmapped place (R51,
R126). -/
def writableOffset (cap a : Nat) : Bool :=
  match regionOf cap a with
  | none => false
  | some r => r.isMemory

/-- What every reachable state satisfies. -/
structure Invariant (s : State) : Prop where
  /-- The memory keeps its canonical form. -/
  canonical : s.mem.wf
  /-- Every byte ever written lies in a populated word of a writable memory (R53, R126). -/
  insideMemories : ∀ c ∈ s.mem, writableOffset Config.sigCap c.1 = true
  /-- `ERRCODE` and `ERRINFO` are 0 while `ERR` is 0 (R27, R28). -/
  noErrorNoRecord : s.err = false → s.errcode = 0 ∧ s.errinfo = 0
  /-- With `ERR` = 1, `ERRCODE` holds a code of R122: 1 to 7. -/
  errorHasCode : s.err = true → ∃ e : CmdError, s.errcode = e.code
  /-- `CMD` reads the command word of the snapshot while one is held (R45). -/
  cmdIsSnapshot : ∀ sn, s.inFlight = some sn → sn.cmd = s.cmd

/-! ## The duties of the host -/

/-- What a host does during one run, as far as its duties speak of it: a command accepted with its snapshot, a write of the
channel into `SIG[c]`, a write of the network's output into `TEN`. -/
inductive RunEvent where
  | command (i : Instr) (sn : Snapshot)
  | channelWritten (c : Channel)
  | tensorWritten
deriving DecidableEq, Repr

/-- One run, in order. -/
abbrev Run := List RunEvent

/-- The commands of a run that satisfy `p`. -/
def RunEvent.isCommand (p : Instr → Bool) : RunEvent → Bool
  | .command i _ => p i
  | .channelWritten _ => false
  | .tensorWritten => false

/-- The frame indices a command adds into `OLA[c]` (R105). -/
def framesAdded (c : Channel) : RunEvent → List Nat
  | .command (.inv ch count _) sn => if ch = c then (List.range count).map (sn.framebase.toNat + ·) else []
  | _ => []

/-- An event that is `PAD c`. -/
def isPadOf (c : Channel) (e : RunEvent) : Bool := e.isCommand (· == .pad c)
/-- An event that is `CLR c`. -/
def isClrOf (c : Channel) (e : RunEvent) : Bool := e.isCommand (· == .clr c)
/-- An event that is `FINISH`. -/
def isFinish (e : RunEvent) : Bool := e.isCommand (· == .finish)
/-- An event that is an `INV` of channel `c`. -/
def isInvOf (c : Channel) (e : RunEvent) : Bool :=
  e.isCommand fun
    | .inv ch _ _ => ch == c
    | _ => false
/-- An event that is a `FWD` of channel `c`. -/
def isFwdOf (c : Channel) (e : RunEvent) : Bool :=
  e.isCommand fun
    | .fwd ch _ _ => ch == c
    | _ => false

/-- No event that satisfies `p` comes after one that satisfies `q`. -/
abbrev NoneAfter (q p : RunEvent → Bool) (run : Run) : Prop := run.Pairwise fun a b => q a = true → p b = false

/-- NORM is exactly the COLA constant 1536 / H of a hop H in 1, 2, 4, ..., 1024 (R110, R149). -/
def normIsCola (hop : Nat) (norm : Word) : Bool :=
  4096 % hop == 0 && hop ≤ 1024 && !norm.msb && F32.expField norm != 255 && F32.units norm * hop == 1536 * 2 ^ 149

/-- Where the frames of a run stand (R150). -/
structure SlotTenants where
  /-- The frame each slot of `SPEC[c]` holds. -/
  frameIn : Channel → Nat → Option Nat
  /-- The frames `TEN` holds for the slots, from the `PACK` of the present batch; `none` before it. -/
  tensor : Option (Channel → Nat → Option Nat)
  /-- The present batch was unpacked. -/
  unpacked : Bool
  /-- The frames `OLA[c]` got so far. -/
  added : Channel → List Nat

/-- Nothing forwarded, packed or added. -/
def SlotTenants.none : SlotTenants := ⟨fun _ _ => Option.none, Option.none, false, fun _ => []⟩

/-- The tenants after an event. A `FWD` that writes a slot opens or extends a batch, which is not packed yet; `UNPACK`
overwrites all slots with the packed ones (R99, R105, R114, R117, R150). -/
def SlotTenants.after (x : SlotTenants) : RunEvent → SlotTenants
  | .command (.fwd ch count slot) sn =>
    if count = 0 then x
    else
      { x with
        frameIn := fun c t =>
          if c = ch ∧ slot ≤ t ∧ t < slot + count then some (sn.framebase.toNat + (t - slot)) else x.frameIn c t
        tensor := Option.none
        unpacked := false }
  | .command (.pack count) _ =>
    { x with tensor := some fun c t => if t < count then x.frameIn c t else Option.none, unpacked := false }
  | .command .unpack _ => { x with frameIn := x.tensor.getD fun _ _ => Option.none, unpacked := true }
  | .command (.inv ch count slot) sn =>
    { x with added := fun c => x.added c ++ framesAdded c (.command (.inv ch count slot) sn) }
  | _ => x

/-- What R150 asks of an event. A `FWD` overwrites no frame that is still to be added, so the `INV`s of a batch come before
the `FWD`s of the next. `UNPACK` comes after the `PACK` of the batch with no `FWD` between. The network's output is written
after that `PACK` and before any `UNPACK` of the batch; a host that leaves the packed tensor as it is writes nothing (R121).
`INV` reads slots that hold exactly the frames it adds. -/
def SlotTenants.allows (x : SlotTenants) : RunEvent → Prop
  | .command (.fwd ch count slot) sn =>
    ∀ k < count, ∀ j, x.frameIn ch (slot + k) = some j → j = sn.framebase.toNat + k ∨ j ∈ x.added ch
  | .command .unpack _ => x.tensor.isSome = true
  | .tensorWritten => x.tensor.isSome = true ∧ x.unpacked = false
  | .command (.inv ch count slot) sn => ∀ k < count, x.frameIn ch (slot + k) = some (sn.framebase.toNat + k)
  | _ => True

/-- Every event is one the tenants before it allow (R150). -/
def slotsRespected : SlotTenants → Run → Prop
  | _, [] => True
  | x, e :: rest => x.allows e ∧ slotsRespected (x.after e) rest

/-- The run obeys the host's duties for channels of length `length` at hop `hop`. A run that does not is still executed
command by command as each rule says (R145). -/
structure HostDuties (cap length hop : Nat) (run : Run) : Prop where
  /-- One length for every command (R145). -/
  oneLength : ∀ i sn, .command i sn ∈ run → needsChannel i = true → sn.length = length
  /-- One hop for every frame (R148). -/
  oneHop : ∀ i sn, .command i sn ∈ run → (frameOperands i).isSome = true → sn.hop.toNat = hop
  /-- `PAD c` follows the last write of the channel and precedes every `FWD c` (R146). -/
  padFirst : ∀ c, NoneAfter (isPadOf c) (· == .channelWritten c) run ∧ NoneAfter (isFwdOf c) (isPadOf c) run ∧
    (run.any (isFwdOf c) = true → run.any (isPadOf c) = true)
  /-- `CLR c` precedes every `INV c` (R147). -/
  clearFirst : ∀ c, NoneAfter (isInvOf c) (isClrOf c) run ∧ (run.any (isInvOf c) = true → run.any (isClrOf c) = true)
  /-- Every `INV` precedes every `FINISH`, which so divides the whole sum (R107). -/
  finishLast : ∀ c, NoneAfter isFinish (isInvOf c) run
  /-- NORM matches the hop (R149). -/
  normMatches : ∀ sn, .command .finish sn ∈ run → normIsCola hop sn.norm = true
  /-- The slots and the tensor hold what the commands take from them (R150). -/
  slots : slotsRespected SlotTenants.none run
  /-- Every frame of each channel is added exactly once (R107, R151); with `clearFirst` and `finishLast`, after the `CLR` and
  before `FINISH`. -/
  everyFrameOnce : ∀ c, (run.flatMap (framesAdded c)).Perm (List.range (frameCount length hop))
  /-- No command fails (R153). -/
  noError : ∀ i sn, .command i sn ∈ run → validate cap i sn = Option.none

end Sys2Proof.Machine
end

