-- ==== Sys2Proof/Machine/Reconstruction.lean ====
section
/-! DEFINITION. The reconstruction law (spec/43_overlap_add.md R109, R112, R113): the identity path of one channel in exact
arithmetic, what the path through the tensor loses against it (spec/44_tensor_codec.md R121), and the law over the commands
of a run in binary32 arithmetic. No step uses these; statements do. -/

namespace Sys2Proof.Machine

/-! ## In exact arithmetic -/

/-- The padded channel of `x` (R89): the reflections of 2048 samples on both sides. -/
def paddedChannel (length : ℕ) (x : ℕ → ℝ) (p : ℕ) : ℝ :=
  if p < 2048 then x (2047 - p) else if p < 2048 + length then x (p - 2048) else x (2 * length + 2047 - p)

/-- The windowed frame of `y` at sample offset `o` (R99). -/
noncomputable def exactWindowed (y : ℕ → ℝ) (o : ℕ) (m : Fin 4096) : ℝ := hann m.val * y (o + m.val)

/-- The spectrum of a frame of real samples (R94). -/
noncomputable def exactSpectrum (v : Fin 4096 → ℝ) : Fin 4096 → ℂ := refDFT fun m => (v m : ℂ)

/-- The inverse frame function of `INV`: transformed back, divided by 4096, windowed (R100). -/
noncomputable def exactIframe (x : Fin 4096 → ℂ) (n : Fin 4096) : ℝ := hann n.val * ((refIDFT x n).re / 4096)

/-- One frame through `FWD` and the inverse frame function: the identity path (R101). -/
noncomputable def exactFrame (y : ℕ → ℝ) (o : ℕ) : Fin 4096 → ℝ := exactIframe (exactSpectrum (exactWindowed y o))

/-- Frames added at every frame offset of the padded channel into a buffer of zeros (R105): `frame o` at offset `o`. -/
noncomputable def overlapAdd (length hop : ℕ) (frame : ℕ → Fin 4096 → ℝ) (p : ℕ) : ℝ :=
  ∑ j ∈ Finset.range (frameCount length hop),
    if j * hop ≤ p ∧ p < j * hop + 4096 then frame (j * hop) (Fin.ofNat 4096 (p - j * hop)) else 0

/-- `OLA[c][p]` after `CLR`, and `FWD` and `INV` of every frame of the padded signal `y` (R105, R109). -/
noncomputable def exactOla (length hop : ℕ) (y : ℕ → ℝ) : ℕ → ℝ := overlapAdd length hop (exactFrame y)

/-- `OUT[2i + c]` after `PAD`, `CLR`, `FWD` and `INV` of every frame, and `FINISH` with NORM = `norm` (R108, R112). -/
noncomputable def exactOut (length hop : ℕ) (norm : ℝ) (x : ℕ → ℝ) (i : ℕ) : ℝ :=
  exactOla length hop (paddedChannel length x) (2048 + i) / norm

/-! ## In exact arithmetic, through `PACK` and `UNPACK` with the identity stub (spec/44_tensor_codec.md R121) -/

/-- Bin `f` of a spectrum as `PACK` leaves it in the tensor (R114). -/
noncomputable def exactPacked (x : Fin 4096 → ℂ) (f : ℕ) : ℂ := if 3 ≤ f ∧ f < 2048 then x (Fin.ofNat 4096 f) else 0

/-- A spectrum after `PACK` and `UNPACK` (R114, R117): DC with imaginary part 0, bins 1 to 2047 copied, the Nyquist bin 0,
the upper half the conjugate mirror. -/
noncomputable def exactCodec (x : Fin 4096 → ℂ) (b : Fin 4096) : ℂ :=
  if b.val = 0 then ((exactPacked x 0).re : ℂ)
  else if b.val < 2048 then exactPacked x b.val
  else if b.val = 2048 then 0
  else star (exactPacked x (4096 - b.val))

/-- One frame through `FWD`, `PACK`, `UNPACK` and the inverse frame function (R121). -/
noncomputable def codecFrame (y : ℕ → ℝ) (o : ℕ) : Fin 4096 → ℝ :=
  exactIframe (exactCodec (exactSpectrum (exactWindowed y o)))

/-- `OLA[c][p]` after `CLR`, and every frame of the padded signal `y` through the codec (R121). -/
noncomputable def codecOla (length hop : ℕ) (y : ℕ → ℝ) : ℕ → ℝ := overlapAdd length hop (codecFrame y)

/-- The six bins a frame of real samples loses (R121). -/
def droppedBins : Finset (Fin 4096) := {0, 1, 2, 2048, 4094, 4095}

/-- `d(n)`: the component of the windowed frame `v` at the six bins (R121). -/
noncomputable def droppedComponent (v : Fin 4096 → ℝ) (n : Fin 4096) : ℝ :=
  (∑ k ∈ droppedBins, exactSpectrum v k * Complex.exp (2 * Real.pi * Complex.I * (k.val * n.val) / 4096)).re / 4096

/-- The DC part of a frame: its mean. -/
noncomputable def dcPart (v : Fin 4096 → ℝ) : ℝ := (∑ m, v m) / 4096

/-- The part of a frame at frequency `f`, 0 < f < 2048: bins `f` and 4096 - `f`. -/
noncomputable def frequencyPart (v : Fin 4096 → ℝ) (f : ℕ) (n : Fin 4096) : ℝ :=
  2 * (∑ m, v m * Real.cos (2 * Real.pi * f * (n.val - m.val) / 4096)) / 4096

/-- The Nyquist part of a frame. -/
noncomputable def nyquistPart (v : Fin 4096 → ℝ) (n : Fin 4096) : ℝ := (∑ m, v m * (-1) ^ (n.val + m.val)) / 4096

/-! ## Over the commands of a run -/

/-- The memory after the commands of a run that all pass validation (R78, R82). -/
def runMemory (run : Run) (m : Memory) : Memory :=
  run.foldl
    (fun m e =>
      match e with
      | .command i sn => effect i sn m
      | .channelWritten _ => m
      | .tensorWritten => m)
    m

/-- The run takes the identity path: commands only, and nothing but `FWD` writes `SPEC` (R112). -/
def identityPath (run : Run) : Bool :=
  run.all fun e => e.isCommand fun i => match i with
    | .pack _ => false
    | .unpack => false
    | _ => true

/-- Channel `c` of length `length` stands in `SIG[c]`, every sample finite and at most 1 in modulus (R112). -/
def UnitChannel (length : ℕ) (c : Channel) (m : Memory) : Prop :=
  ∀ i < length, F32.isFinite (m.get (.sig c) (2048 + i)) = true ∧ |F32.toReal (m.get (.sig c) (2048 + i))| ≤ 1

/-- The reconstruction law in binary32 arithmetic (R112, R98), for this block: at hop 1024, with realisations that meet R97
at FFT_EPS <= 2^-22, a run that fulfils the host's duties on the identity path and holds a `FINISH` leaves every interior
output sample within 1e-4 of the sample the host wrote. The spec derives it from R97 with the roundings estimated (R98); it
is defined here and no statement asserts it (log 23). -/
def ReconstructsWithinTolerance : Prop :=
  TransformsMeetAccuracy → Config.fftEps ≤ 1 / 2 ^ 22 →
    ∀ (length : ℕ) (run : Run) (m : Memory),
      HostDuties Config.sigCap length 1024 run → identityPath run = true → run.any isFinish = true →
      (∀ c, UnitChannel length c m) →
      ∀ (c : Channel) (i : ℕ), Interior length 1024 i →
        F32.isFinite ((runMemory run m).get .out (2 * i + c.index)) = true ∧
        |F32.toReal ((runMemory run m).get .out (2 * i + c.index)) - F32.toReal (m.get (.sig c) (2048 + i))| < 1e-4

end Sys2Proof.Machine
end

