-- ==== Sys2Proof/Certificates/Slice0/Obligations.lean ====
section
/-! DEFINITION. The statements for the provers, each about the rule of spec/ its docstring names. -/

namespace Sys2Proof.Statements

open Sys2Proof.Machine

/-! ## Words the statements use -/

/-- The engine is to move: a command is in flight with snapshot `sn`, and the turn is not the host's (R75). -/
def EngineTurn (s : State) (sn : Snapshot) : Prop :=
  s.inFlight = some sn ∧ s.turns.head? ≠ some .host

/-- A transaction heads the port and the turn is the host's: it is preferred, or no command is in flight (R75). -/
def HostTurn (s : State) (t : Txn) (rest : List Txn) : Prop :=
  s.port = t :: rest ∧ (s.turns.head? = some .host ∨ s.inFlight = none)

/-- The state after the oldest transaction was answered with `r` and nothing else happened. -/
def answered (s : State) (rest : List Txn) (r : Response) : State :=
  { s with port := rest, responses := r :: s.responses, turns := s.turns.tail }

/-- A word write of the byte offset `a`. -/
def wordWrite (a : Nat) (v : Word) : Txn := ⟨.write v, BitVec.ofNat 31 a, 4⟩

/-- A word read of the byte offset `a`. -/
def wordRead (a : Nat) : Txn := ⟨.read, BitVec.ofNat 31 a, 4⟩

/-- The oldest transaction of the port is a write of `v` at the byte offset `a`. -/
def HeadWrites (s : State) (a : Nat) (v : Word) : Prop := ∃ rest, s.port = wordWrite a v :: rest

/-- The state after the command in flight completed without an error and left the memory `m` (R80). -/
def completed (s : State) (m : Memory) : State :=
  { s with mem := m, inFlight := none, done := true, cmdcount := s.cmdcount + 1 }

/-- The byte offset `a` lies outside the `n` words of region `r` from word `first` on. -/
def Outside (r : Region) (first n a : Nat) : Prop := a < r.wordAddr first ∨ r.wordAddr (first + n) ≤ a

/-- The mapped offsets of R51, written out of its table. -/
def Mapped (a : Nat) : Prop :=
  a < 0x1000 ∨ (0x10000 ≤ a ∧ a < 0x14000) ∨ (0x00800000 ≤ a ∧ a < 0x02000000) ∨
  (0x10000000 ≤ a ∧ a < 0x10000000 + 4 * Config.sigCap) ∨ (0x20000000 ≤ a ∧ a < 0x20000000 + 4 * Config.sigCap) ∨
  (0x30000000 ≤ a ∧ a < 0x30000000 + 4 * Config.sigCap) ∨ (0x40000000 ≤ a ∧ a < 0x40000000 + 4 * Config.sigCap) ∨
  (0x50000000 ≤ a ∧ a < 0x50000000 + 4 * (2 * (Config.sigCap - 4096)))

/-- The cases of a bus error (R125). -/
def GetsBusError (t : Txn) : Prop :=
  t.size ≠ 4 ∨ t.addr.toNat % 4 ≠ 0 ∨ ¬ Mapped t.addr.toNat ∨
  (0x10000 ≤ t.addr.toNat ∧ t.addr.toNat < 0x14000 ∧ t.access ≠ .read)

/-- `o` is the code of the first condition of the list that holds, or `none`. -/
def FirstOf : List (CmdError × Prop) → Option CmdError → Prop
  | [], o => o = none
  | (e, holds) :: rest, o => (holds ∧ o = some e) ∨ (¬ holds ∧ FirstOf rest o)

/-- The table of R79, row by row, over the bits of the command word. -/
def validationRows (sn : Snapshot) : List (CmdError × Prop) :=
  let op := (sn.cmd.extractLsb 31 28).toNat
  let count := (sn.cmd.extractLsb 16 8).toNat
  let slot := (sn.cmd.extractLsb 7 0).toNat
  let L := sn.len.toNat
  [(.illegalCmd, ∀ i : Instr, sn.cmd &&& i.rowMask ≠ i.rowMatch),
   (.batchTooLarge, op ∈ [3, 4, 5] ∧ (256 < count ∨ 256 < slot + count)),
   (.capacity, op ∈ [1, 2, 3, 4, 7] ∧ Config.sigCap < L + 4096),
   (.badHop, op ∈ [3, 4] ∧ sn.hop = 0),
   (.lenTooShort, op = 1 ∧ L < 2048),
   (.sizeMismatch, op ∈ [3, 4] ∧ 0 < count ∧ L < (sn.framebase.toNat + count - 1) * sn.hop.toNat),
   (.badNorm, op = 7 ∧ (sn.norm.extractLsb 30 23 = 0xFF#8 ∨ sn.norm.getLsbD 31 = true ∨ sn.norm.extractLsb 30 0 = 0#31))]

/-- The half of a bin a tensor channel holds: real for channels 0 and 2, imaginary for 1 and 3 (R43). -/
def half (c : Nat) (x : Bin) : Word := if c % 2 = 0 then x.re else x.im

/-- The word an `INV` leaves in `OLA[ch][p]`: the old word with the words of the frames that cover `p` added one at a time
in ascending order (R105, R106). -/
def overlapSum (s : State) (sn : Snapshot) (ch : Channel) (count slot p : Nat) : Word :=
  (List.range count).foldl
    (fun acc k =>
      let o := (sn.framebase.toNat + k) * sn.hop.toNat
      if o ≤ p ∧ p < o + 4096 then
        F32.fadd acc
          (F32.fmul (win (p - o))
            (F32.fdiv (Config.invDFT (fun b => s.mem.specBin ch (slot + k) b.val) (Fin.ofNat 4096 (p - o))).re
              0x45800000#32))
      else acc)
    (s.mem.get (.ola ch) p)

/-- The infinity of a sign. -/
def signedInf (negative : Bool) : Word := if negative then 0xFF800000#32 else 0x7F800000#32

/-- The zero of a sign. -/
def signedZero (negative : Bool) : Word := if negative then 0x80000000#32 else 0x00000000#32

end Sys2Proof.Statements

open Sys2Proof Sys2Proof.Machine Sys2Proof.Statements

/-! ## Encoding -/

/-- Decoding an encoded well-formed command gives it back, with every operand at every value its field admits (R66, R69,
R71). -/
def Obligations.DecodeOfEncodeIsIdentity : Prop :=
  ∀ i : Instr, i.wellFormed = true → decode (encode i) = .ok i

/-- A word the decoder accepts is the encoding of the command it gives, which is well formed: each word has one meaning
(R69). -/
def Obligations.EncodeOfDecodeIsIdentity : Prop :=
  ∀ (w : Word) (i : Instr), decode w = .ok i → i.wellFormed = true ∧ encode i = w

/-- The decoder gives a command exactly to the words some row of the opcode map matches, and then the command of that row
(R69, R70). -/
def Obligations.DecoderAcceptsExactlyTheOpcodeMap : Prop :=
  ∀ w : Word,
    (∀ i : Instr, decode w = .ok i → w &&& i.rowMask = i.rowMatch) ∧
    ((∃ i : Instr, w &&& i.rowMask = i.rowMatch) → ∃ i : Instr, decode w = .ok i) ∧
    (∀ i j : Instr, w &&& i.rowMask = i.rowMatch → w &&& j.rowMask = j.rowMatch →
      i.rowMask = j.rowMask ∧ i.rowMatch = j.rowMatch)

/-- Words written out from R71 and from section 2.1 of 95_test_vectors.md, one of each command, decode to the commands they
stand for. -/
def Obligations.SampleWordsDecode : Prop :=
  decode 0x00000000 = .ok .nop ∧ decode 0x10020000 = .ok (.pad .right) ∧ decode 0x20020000 = .ok (.clr .right) ∧
  decode 0x30025700 = .ok (.fwd .right 87 0) ∧ decode 0x400201FF = .ok (.inv .right 1 255) ∧
  decode 0x50005700 = .ok (.pack 87) ∧ decode 0x60000000 = .ok .unpack ∧ decode 0x70000000 = .ok .finish

/-! ## The step -/

/-- When the engine is to move and the word in flight decodes to a command, the step is `exec` of it; the step itself only
uses up the turn (R75, R78). -/
def Obligations.StepRunsTheDecodedCommand : Prop :=
  ∀ (s : State) (sn : Snapshot) (i : Instr),
    EngineTurn s sn → decode sn.cmd = .ok i → step s = exec i { s with turns := s.turns.tail }

/-- `withFetchWord` places a command so that the very next step runs it, in any state (log 16). -/
def Obligations.PlacedWordIsRunNext : Prop :=
  ∀ (s : State) (w : Word) (i : Instr), decode w = .ok i →
    step (s.withFetchWord 32 w.toNat) = exec i (s.accept w)

/-- An illegal word in flight completes with `ILLEGAL_CMD`, code 1, and changes no memory (R70, R81). -/
def Obligations.IllegalWordCompletesWithItsError : Prop :=
  ∀ (s : State) (sn : Snapshot), EngineTurn s sn → (∀ i : Instr, sn.cmd &&& i.rowMask ≠ i.rowMatch) →
    step s = .next
      { s with
        err := true
        errcode := if s.err then s.errcode else 1
        errinfo := if s.err then s.errinfo else sn.cmd
        inFlight := none
        done := true
        cmdcount := s.cmdcount + 1
        turns := s.turns.tail }

/-- Every state has a next state: no step faults or refuses. That a bus error and a command error are next states and not
faults is the model's reading (R124, R125, R130; log 18). -/
def Obligations.EveryStateHasANextState : Prop :=
  ∀ s : State, ∃ t, step s = .next t

/-- R76: a host write of `v` to `CMD` while `BUSY` = 0 is accepted, whatever `v` is. It sets `CMD`, latches the snapshot
from the live registers, sets `BUSY`, and changes nothing else. -/
def Obligations.CommandWriteWhileIdleIsAccepted : Prop :=
  ∀ (s : State) (v : Word) (rest : List Txn),
    s.port = wordWrite 0x020 v :: rest → s.inFlight = none →
    step s = .next
      { answered s rest .ok with
        cmd := v
        inFlight := some ⟨v, s.len, s.hop, s.norm, s.framebase⟩ }

/-- R77: a host write to `CMD` while `BUSY` = 1 is dropped with an OK response. `OVR` becomes 1; `CMD`, the snapshot, the
running command and all else are unchanged. -/
def Obligations.CommandWriteWhileBusyIsDropped : Prop :=
  ∀ (s : State) (v : Word) (rest : List Txn) (sn : Snapshot),
    s.port = wordWrite 0x020 v :: rest → s.inFlight = some sn → s.turns.head? = some .host →
    step s = .next { answered s rest .ok with ovr := true }

/-- R79: the error of the command in a snapshot is that of the first row of the table that holds, or none. -/
def Obligations.ValidationReportsTheFirstRow : Prop :=
  ∀ sn : Snapshot, FirstOf (validationRows sn) (validateWord Config.sigCap sn)

/-- R81, R123: a command that fails validation, legal or not, writes no memory word. It records its error only while `ERR`
is 0, completes, and changes nothing else. -/
def Obligations.FailedCommandOnlyRecordsItsError : Prop :=
  ∀ (s : State) (sn : Snapshot) (e : CmdError),
    s.inFlight = some sn → validateWord Config.sigCap sn = some e →
    engineStep s = .next
      { s with
        err := true
        errcode := if s.err then s.errcode else e.code
        errinfo := if s.err then s.errinfo else sn.cmd
        inFlight := none
        done := true
        cmdcount := s.cmdcount + 1 }

/-- A command that passes validation completes: `BUSY` 0, `DONE` 1, `CMDCOUNT` + 1 (R80), memory changed at most inside the
write set that R140 lists for it, every other register, the port and the model's own fields unchanged. This holds for all
eight commands. -/
def Obligations.ValidCommandCompletesInsideItsWriteSet : Prop :=
  ∀ (i : Instr) (s : State) (sn : Snapshot),
    s.inFlight = some sn → validate Config.sigCap i sn = none →
    ∃ m : Memory, exec i s = .next (completed s m) ∧
      ∀ a, inRanges (writeSet i sn) a = false → m.byte a = s.mem.byte a

/-- Every write set lies inside its memory (R126): the words of each range are words the block has. -/
def Obligations.WriteSetsLieInsideTheirMemories : Prop :=
  ∀ (i : Instr) (sn : Snapshot), validate Config.sigCap i sn = none →
    ∀ r ∈ writeSet i sn, r.region.isMemory = true ∧ r.first + r.count ≤ r.region.words Config.sigCap

/-! ## The commands -/

/-- `NOP` completes and has no other effect, whatever the registers hold (R85, R80). -/
def Obligations.NopOnlyCompletes : Prop :=
  ∀ (s : State) (sn : Snapshot), s.inFlight = some sn → exec .nop s = .next (completed s s.mem)

/-- `PAD ch` (R89): both pads are the reflections of the channel, every byte outside the two pads and every register but
those of completion keep their values. -/
def Obligations.PadWritesBothReflections : Prop :=
  ∀ (ch : Channel) (s : State) (sn : Snapshot),
    s.inFlight = some sn → sn.len.toNat + 4096 ≤ Config.sigCap → 2048 ≤ sn.len.toNat →
    ∃ m : Memory, exec (.pad ch) s = .next (completed s m) ∧
      (∀ j < 2048, m.get (.sig ch) j = s.mem.get (.sig ch) (4095 - j)) ∧
      (∀ j < 2048, m.get (.sig ch) (2048 + sn.len.toNat + j) = s.mem.get (.sig ch) (2047 + sn.len.toNat - j)) ∧
      (∀ a, Outside (.sig ch) 0 2048 a → Outside (.sig ch) (2048 + sn.len.toNat) 2048 a → m.byte a = s.mem.byte a)

/-- R93: after `PAD c` the channel the host wrote still stands at `SIG[c][2048 .. 2048 + L)`, bit for bit. -/
def Obligations.PadKeepsTheChannel : Prop :=
  ∀ (ch : Channel) (s t : State) (sn : Snapshot),
    s.inFlight = some sn → exec (.pad ch) s = .next t →
    ∀ i < sn.len.toNat, t.mem.get (.sig ch) (2048 + i) = s.mem.get (.sig ch) (2048 + i)

/-- `PAD` of an already padded buffer rewrites the same values (R89): the second `PAD` at the same length leaves the memory
as it is. -/
def Obligations.PadTwiceIsPadOnce : Prop :=
  ∀ (ch : Channel) (s : State) (sn : Snapshot) (w : Word),
    s.mem.wf → s.inFlight = some sn → sn.len = s.len → sn.len.toNat + 4096 ≤ Config.sigCap → 2048 ≤ sn.len.toNat →
    ∃ t u : State, exec (.pad ch) s = .next t ∧ exec (.pad ch) (t.accept w) = .next u ∧ u.mem = t.mem

/-- `CLR ch` (R104): the first L + 4096 words of the channel's overlap-add buffer become +0, all else as at completion. -/
def Obligations.ClrZeroesTheBuffer : Prop :=
  ∀ (ch : Channel) (s : State) (sn : Snapshot),
    s.inFlight = some sn → sn.len.toNat + 4096 ≤ Config.sigCap →
    ∃ m : Memory, exec (.clr ch) s = .next (completed s m) ∧
      (∀ i < sn.len.toNat + 4096, m.get (.ola ch) i = 0x00000000#32) ∧
      (∀ a, Outside (.ola ch) 0 (sn.len.toNat + 4096) a → m.byte a = s.mem.byte a)

/-- `FWD ch, count, slot` (R99): slot + k holds the transform of the windowed frame FRAMEBASE + k, for every k in [0,
count); every byte outside those slots keeps its value. -/
def Obligations.FwdTransformsEachFrame : Prop :=
  ∀ (ch : Channel) (count slot : Nat) (s : State) (sn : Snapshot),
    s.inFlight = some sn → count ≤ 256 → slot + count ≤ 256 → sn.len.toNat + 4096 ≤ Config.sigCap → sn.hop ≠ 0 →
    (0 < count → (sn.framebase.toNat + count - 1) * sn.hop.toNat ≤ sn.len.toNat) →
    ∃ m : Memory, exec (.fwd ch count slot) s = .next (completed s m) ∧
      (∀ k < count, ∀ b : Fin 4096,
        m.specBin ch (slot + k) b.val =
          Config.fwdDFT
            (fun n => ⟨F32.fmul (win n.val) (s.mem.get (.sig ch) ((sn.framebase.toNat + k) * sn.hop.toNat + n.val)),
              0x00000000#32⟩) b) ∧
      (∀ a, Outside (.spec ch) (slot * 8192) (count * 8192) a → m.byte a = s.mem.byte a)

/-- `INV ch, count, slot` (R105, R106): every word of the padded-length buffer gets the inverse frames that cover it added
one at a time in ascending order; every byte outside the words from the first frame's start to the last frame's end keeps
its value. -/
def Obligations.InvAddsFramesInOrder : Prop :=
  ∀ (ch : Channel) (count slot : Nat) (s : State) (sn : Snapshot),
    s.inFlight = some sn → count ≤ 256 → slot + count ≤ 256 → sn.len.toNat + 4096 ≤ Config.sigCap → sn.hop ≠ 0 →
    (0 < count → (sn.framebase.toNat + count - 1) * sn.hop.toNat ≤ sn.len.toNat) →
    ∃ m : Memory, exec (.inv ch count slot) s = .next (completed s m) ∧
      (∀ p < sn.len.toNat + 4096, m.get (.ola ch) p = overlapSum s sn ch count slot p) ∧
      (count = 0 → ∀ a, m.byte a = s.mem.byte a) ∧
      (∀ a,
        Outside (.ola ch) (sn.framebase.toNat * sn.hop.toNat) ((count - 1) * sn.hop.toNat + 4096) a →
          m.byte a = s.mem.byte a)

/-- `FINISH` (R108): `OUT[2i + c]` is `OLA[c][2048 + i]` divided by the snapshot's NORM, for i in [0, L) and both channels;
every byte outside `OUT[0 .. 2L)` keeps its value. -/
def Obligations.FinishInterleavesAndNormalizes : Prop :=
  ∀ (s : State) (sn : Snapshot),
    s.inFlight = some sn → sn.len.toNat + 4096 ≤ Config.sigCap →
    sn.norm.extractLsb 30 23 ≠ 0xFF#8 → sn.norm.getLsbD 31 = false → sn.norm.extractLsb 30 0 ≠ 0#31 →
    ∃ m : Memory, exec .finish s = .next (completed s m) ∧
      (∀ i < sn.len.toNat,
        m.get .out (2 * i) = F32.fdiv (s.mem.get (.ola .left) (2048 + i)) sn.norm ∧
        m.get .out (2 * i + 1) = F32.fdiv (s.mem.get (.ola .right) (2048 + i)) sn.norm) ∧
      (∀ a, Outside .out 0 (2 * sn.len.toNat) a → m.byte a = s.mem.byte a)

/-- `PACK count` (R114, R115): tensor word (c, f, t) is the bin half of frame t for f in [3, 2048) and t < count, and +0
elsewhere; every byte outside `TEN` keeps its value. -/
def Obligations.PackFillsTheTensor : Prop :=
  ∀ (count : Nat) (s : State) (sn : Snapshot),
    s.inFlight = some sn → count ≤ 256 →
    ∃ m : Memory, exec (.pack count) s = .next (completed s m) ∧
      (∀ c < 4, ∀ f < 2048, ∀ t < 256,
        m.get .ten (c * 524288 + f * 256 + t) =
          if 3 ≤ f ∧ t < count then half c (s.mem.specBin (if c < 2 then .left else .right) t f) else 0x00000000#32) ∧
      (∀ a, Outside .ten 0 2097152 a → m.byte a = s.mem.byte a)

/-- `UNPACK` (R117): bins 1 to 2047 of every slot of both channels are copied from the tensor, bin 0 with imaginary part
+0, bin 2048 is (+0, +0), and bin 4096 - f is the conjugate mirror of bin f; every byte outside `SPEC[0]` and `SPEC[1]`
keeps its value. -/
def Obligations.UnpackRebuildsTheSpectra : Prop :=
  ∀ (s : State) (sn : Snapshot),
    s.inFlight = some sn →
    ∃ m : Memory, exec .unpack s = .next (completed s m) ∧
      (∀ c : Channel, ∀ t < 256,
        let re := fun f => s.mem.get .ten (2 * c.index * 524288 + f * 256 + t)
        let im := fun f => s.mem.get .ten ((2 * c.index + 1) * 524288 + f * 256 + t)
        m.specBin c t 0 = ⟨re 0, 0x00000000#32⟩ ∧
        m.specBin c t 2048 = ⟨0x00000000#32, 0x00000000#32⟩ ∧
        (∀ f, 1 ≤ f → f < 2048 → m.specBin c t f = ⟨re f, im f⟩) ∧
        (∀ f, 1 ≤ f → f < 2048 → m.specBin c t (4096 - f) = ⟨re f, im f ^^^ 0x80000000#32⟩)) ∧
      (∀ a, Outside (.spec .left) 0 2097152 a → Outside (.spec .right) 0 2097152 a → m.byte a = s.mem.byte a)

/-- R118: `PACK n` and then `UNPACK`, nothing written between. Bins [3, 2048) of the packed slots come back bit for bit,
bins 0, 1, 2 and 2048 become (+0, +0), the upper bins the mirror of the new lower ones, and slots t >= n the zero
pattern of R117. -/
def Obligations.PackThenUnpackRoundTrip : Prop :=
  ∀ (n : Nat) (s : State) (sn : Snapshot),
    s.inFlight = some sn → n ≤ 256 →
    ∃ t u : State, exec (.pack n) s = .next t ∧ exec .unpack (t.accept 0x60000000#32) = .next u ∧
      ∀ c : Channel, ∀ slot < 256,
        (∀ f, 3 ≤ f → f < 2048 →
          u.mem.specBin c slot f =
            if slot < n then s.mem.specBin c slot f else ⟨0x00000000#32, 0x00000000#32⟩) ∧
        (∀ f < 3, u.mem.specBin c slot f = ⟨0x00000000#32, 0x00000000#32⟩) ∧
        u.mem.specBin c slot 2048 = ⟨0x00000000#32, 0x00000000#32⟩ ∧
        (∀ f, 1 ≤ f → f < 2048 →
          u.mem.specBin c slot (4096 - f) =
            ⟨(u.mem.specBin c slot f).re, (u.mem.specBin c slot f).im ^^^ 0x80000000#32⟩)

/-! ## The one-pass effects are the spec's loops -/

/-- The effects of `PAD` and `CLR` are the word-by-word loops of R89 and R104, as equal memories, for every length. -/
def Obligations.PadAndClrEqualTheirLoops : Prop :=
  ∀ (ch : Channel) (sn : Snapshot) (m : Memory), m.wf →
    padMemory ch sn m = padLoop ch sn m ∧ clrMemory ch sn m = clrLoop ch sn m

/-- The effect of `FINISH` is the loop nest of R108, as equal memories, for every length that passes validation. -/
def Obligations.FinishEqualsItsLoop : Prop :=
  ∀ (sn : Snapshot) (m : Memory), m.wf → sn.len.toNat + 4096 ≤ Config.sigCap →
    finishMemory sn m = finishLoop sn m

/-- The effects of `FWD` and `INV` are the loop nests of R99 and R105, as equal memories, for every batch within the 256
slots and any transform realisation. -/
def Obligations.FwdAndInvEqualTheirLoops : Prop :=
  ∀ (dft : Transform) (ch : Channel) (count slot : Nat) (sn : Snapshot) (m : Memory), m.wf → slot + count ≤ 256 →
    fwdMemory dft ch count slot sn m = fwdLoop dft ch count slot sn m ∧
    invMemory dft ch count slot sn m = invLoop dft ch count slot sn m

/-- The effects of `PACK` and `UNPACK` are the loop nests of R114 and R117, as equal memories. -/
def Obligations.PackAndUnpackEqualTheirLoops : Prop :=
  ∀ (count : Nat) (sn : Snapshot) (m : Memory), m.wf → count ≤ 256 →
    packMemory count sn m = packLoop count m ∧ unpackMemory sn m = unpackLoop m

/-! ## Registers -/

/-- R22, R23, R24: `ID`, `VERSION` and `SIGCAP` read their constants in every state, also while a command runs, and writes
of them are ignored with an OK response. -/
def Obligations.ConstantRegistersReadTheirConstants : Prop :=
  ∀ (s : State) (rest : List Txn) (v : Word),
    (HostTurn s (wordRead 0x000) rest → step s = .next (answered s rest (.data 0x4D445846#32))) ∧
    (HostTurn s (wordRead 0x004) rest → step s = .next (answered s rest (.data 0x00010000#32))) ∧
    (HostTurn s (wordRead 0x008) rest →
      ∃ w : Word, w.toNat = Config.sigCap ∧ step s = .next (answered s rest (.data w))) ∧
    (∀ a ∈ [0x000, 0x004, 0x008], HostTurn s (wordWrite a v) rest → step s = .next (answered s rest .ok))

/-- The writable registers `LEN`, `HOP`, `NORM` and `FRAMEBASE` take the written value, `HOP` bits 12:0 of it, and nothing
else changes: not the snapshot of a command in flight (R30 to R33, R45, R144). Writes of the read-only registers `ERRCODE`,
`ERRINFO` and `CMDCOUNT` are ignored (R21, R35). -/
def Obligations.ConfigurationWritesKeepTheSnapshot : Prop :=
  ∀ (s : State) (rest : List Txn) (v : Word),
    (HostTurn s (wordWrite 0x024 v) rest → step s = .next { answered s rest .ok with len := v }) ∧
    (HostTurn s (wordWrite 0x028 v) rest →
      ∃ h : BitVec 13, h.toNat = v.toNat % 8192 ∧ step s = .next { answered s rest .ok with hop := h }) ∧
    (HostTurn s (wordWrite 0x02C v) rest → step s = .next { answered s rest .ok with norm := v }) ∧
    (HostTurn s (wordWrite 0x030 v) rest → step s = .next { answered s rest .ok with framebase := v }) ∧
    (∀ a ∈ [0x018, 0x01C, 0x038], HostTurn s (wordWrite a v) rest → step s = .next (answered s rest .ok))

/-- The readable registers return what the state holds, with their reserved bits 0, and a read changes nothing (R25 to R33,
R35, R52, R57). -/
def Obligations.RegisterReadsReturnTheState : Prop :=
  ∀ (s : State) (rest : List Txn) (a : Nat) (w : Word),
    HostTurn s (wordRead a) rest →
    (a, w.toNat) ∈
      [(0x010, 2 * s.irqen.toNat),
       (0x014, 8 * s.ovr.toNat + 4 * s.err.toNat + 2 * s.done.toNat + s.inFlight.isSome.toNat),
       (0x018, s.errcode.toNat), (0x01C, s.errinfo.toNat), (0x020, s.cmd.toNat), (0x024, s.len.toNat),
       (0x028, s.hop.toNat), (0x02C, s.norm.toNat), (0x030, s.framebase.toNat), (0x038, s.cmdcount.toNat)] →
    step s = .next (answered s rest (.data w))

/-- R34: `NFRAMES` reads 0 while `HOP` is 0, else floor(LEN / HOP) + 1 modulo 2^32, from the live registers also while a
command runs; writes are ignored; it reads 1 right after reset. -/
def Obligations.NframesCountsTheLiveFrames : Prop :=
  (∀ (s : State) (rest : List Txn), HostTurn s (wordRead 0x034) rest →
    ∃ w : Word, step s = .next (answered s rest (.data w)) ∧
      w.toNat = if s.hop = 0 then 0 else (s.len.toNat / s.hop.toNat + 1) % 2 ^ 32) ∧
  (∀ (s : State) (rest : List Txn) (v : Word), HostTurn s (wordWrite 0x034 v) rest →
    step s = .next (answered s rest .ok)) ∧
  step { State.reset with port := [wordRead 0x034] } =
    .next { State.reset with responses := [.data 0x00000001#32] }

/-- R36: every reserved word offset of the window reads 0 and ignores writes, with no bus error. The reserved fields of
`CTRL`, `STATUS`, `ERRCODE` and `HOP` read 0, and two writes of one of them that agree on the writable bits do the same. -/
def Obligations.ReservedOffsetsAndFieldsReadZero : Prop :=
  (∀ (s : State) (rest : List Txn) (a : Nat), a % 4 = 0 → a < 0x1000 →
    a ∉ [0x000, 0x004, 0x008, 0x010, 0x014, 0x018, 0x01C, 0x020, 0x024, 0x028, 0x02C, 0x030, 0x034, 0x038] →
    (HostTurn s (wordRead a) rest → step s = .next (answered s rest (.data 0x00000000#32))) ∧
    (∀ v : Word, HostTurn s (wordWrite a v) rest → step s = .next (answered s rest .ok))) ∧
  (∀ s : State, ∀ p ∈ [(0x010, 0x00000003#32), (0x014, 0x0000000F#32), (0x018, 0x000000FF#32), (0x028, 0x00001FFF#32)],
    ∃ w : Word, w &&& ~~~p.2 = 0x00000000#32 ∧
      ∀ rest, HostTurn s (wordRead p.1) rest → step s = .next (answered s rest (.data w))) ∧
  (∀ s : State, ∀ p ∈ [(0x010, 0x00000003#32), (0x014, 0x0000000E#32), (0x018, 0x00000000#32), (0x028, 0x00001FFF#32)],
    ∀ v w : Word, v &&& p.2 = w &&& p.2 → ∀ rest,
      step { s with port := wordWrite p.1 v :: rest, turns := [.host] } =
        step { s with port := wordWrite p.1 w :: rest, turns := [.host] })

/-- A write of `STATUS` clears exactly the flags with a 1 in bits 1, 2 and 3; clearing `ERR` clears `ERRCODE` and `ERRINFO`
in the same access (R26, R131). A write of `CTRL` with bit 0 clear sets `IRQEN` to bit 1 (R25). Either changes nothing
else, whether a command runs or not. -/
def Obligations.StatusAndControlWritesActOnTheirFields : Prop :=
  ∀ (s : State) (rest : List Txn) (v : Word),
    (HostTurn s (wordWrite 0x014 v) rest →
      step s = .next
        { answered s rest .ok with
          done := s.done && !v.getLsbD 1
          err := s.err && !v.getLsbD 2
          ovr := s.ovr && !v.getLsbD 3
          errcode := if v.getLsbD 2 then 0 else s.errcode
          errinfo := if v.getLsbD 2 then 0 else s.errinfo }) ∧
    (HostTurn s (wordWrite 0x010 v) rest → v.getLsbD 0 = false →
      step s = .next { answered s rest .ok with irqen := v.getLsbD 1 })

/-- A write of `CTRL` with bit 0 set is a soft reset (R140, R25): every register takes its reset value whatever bit 1 is,
the snapshot is discarded, the aborted command neither completes nor counts, and every memory byte outside its write set
keeps its value. Nothing is said of the write set. Two points are the model's: the number of aborts (log 5), and that the
write set of an aborted `FWD` or `INV` with count 0 is empty, where the formula of R140 for `INV` read alone gives a nonempty
range (log 14). -/
def Obligations.SoftResetKeepsOtherMemory : Prop :=
  ∀ (s : State) (rest : List Txn) (v : Word), HostTurn s (wordWrite 0x010 v) rest → v.getLsbD 0 = true →
    ∃ m : Memory,
      step s = .next
        { State.reset with
          mem := m
          port := rest
          responses := .ok :: s.responses
          turns := s.turns.tail
          draws := if s.inFlight.isSome then s.draws + 1 else s.draws } ∧
      (s.inFlight = none → m = s.mem) ∧
      (∀ sn, s.inFlight = some sn → ∀ a, inRanges (writeSetOf Config.sigCap sn) a = false → m.byte a = s.mem.byte a)

/-- The reset state (R139, R21, R49): every register of R21 as read through the window, with `SIGCAP` the parameter, no
snapshot, `irq` low, and every memory byte its power-on draw. That the port and the schedule start empty is the model's choice (log 17). -/
def Obligations.ResetStateIsAsSpecified : Prop :=
  (∀ p ∈ [(Reg.id, 0x4D445846#32), (.version, 0x00010000#32), (.ctrl, 0x00000000#32), (.status, 0x00000000#32), (.errcode, 0x00000000#32), (.errinfo, 0x00000000#32),
      (.cmd, 0x00000000#32), (.len, 0x00000000#32), (.hop, 0x00000400#32), (.norm, 0x3FC00000#32),
      (.framebase, 0x00000000#32), (.nframes, 0x00000001#32), (.cmdcount, 0x00000000#32)],
    regRead Config.sigCap State.reset p.1 = p.2) ∧
  (regRead Config.sigCap State.reset .sigcap).toNat = Config.sigCap ∧
  State.reset.inFlight = none ∧ State.reset.irq = false ∧
  ∀ a, State.reset.mem.byte a = Config.powerOnByte a

/-- The interrupt line (R127): completing a command, with or without an error, leaves `irq` = IRQEN; clearing `DONE` lowers
it; clearing IRQEN or a soft reset lowers it; setting IRQEN raises it at once if `DONE` is set; a dropped command and a
bus error leave it alone. -/
def Obligations.InterruptFollowsCompletion : Prop :=
  (∀ (s t : State) (sn : Snapshot), s.inFlight = some sn → engineStep s = .next t → t.irq = s.irqen) ∧
  (∀ (s : State) (rest : List Txn) (v : Word), HostTurn s (wordWrite 0x014 v) rest →
    ∃ t, step s = .next t ∧ t.irq = (s.irq && !v.getLsbD 1)) ∧
  (∀ (s : State) (rest : List Txn) (v : Word), HostTurn s (wordWrite 0x010 v) rest →
    ∃ t, step s = .next t ∧ t.irq = (s.done && v.getLsbD 1 && !v.getLsbD 0)) ∧
  (∀ (s : State) (rest : List Txn) (v : Word), HostTurn s (wordWrite 0x020 v) rest →
    ∃ t, step s = .next t ∧ t.irq = s.irq) ∧
  (∀ (s : State) (rest : List Txn) (x : Txn), HostTurn s x rest → GetsBusError x →
    ∃ t, step s = .next t ∧ t.irq = s.irq)

/-! ## The host port -/

/-- R125: a transaction of another size than 4, misaligned, unmapped, or a write to `WIN` is answered ERROR at once, also
while a command runs, and changes no register, no memory word and no status bit. -/
def Obligations.BusErrorChangesNothing : Prop :=
  ∀ (s : State) (x : Txn) (rest : List Txn), HostTurn s x rest → GetsBusError x →
    step s = .next (answered s rest .error)

/-- A host write of a memory word and then a read of it, while idle: both are answered OK, the read with the bits written;
every other byte of memory and everything but the port keep their values (R53, R55). -/
def Obligations.MemoryWriteThenReadReturnsIt : Prop :=
  ∀ (s : State) (r : Region) (i : Nat) (v : Word) (rest : List Txn),
    r.isMemory = true → i < r.words Config.sigCap → s.inFlight = none →
    s.port = wordWrite (r.wordAddr i) v :: wordRead (r.wordAddr i) :: rest →
    ∃ m : Memory,
      Host.Core.run core 2 s = .next
        { s with mem := m, port := rest, responses := .data v :: .ok :: s.responses, turns := s.turns.tail.tail } ∧
      (∀ k < 4, m.byte (r.wordAddr i + k) = v.extractLsb' (8 * k) 8) ∧
      (∀ a, Outside r i 1 a → m.byte a = s.mem.byte a)

/-- A host read of a memory word or of `WIN` while idle returns the word and changes nothing (R53, R57). -/
def Obligations.MemoryReadsHaveNoSideEffect : Prop :=
  ∀ (s : State) (rest : List Txn), s.inFlight = none →
    (∀ (r : Region) (i : Nat), r.isMemory = true → i < r.words Config.sigCap →
      s.port = wordRead (r.wordAddr i) :: rest → step s = .next (answered s rest (.data (s.mem.get r i)))) ∧
    (∀ n < 4096, s.port = wordRead (0x10000 + 4 * n) :: rest → step s = .next (answered s rest (.data (win n))))

/-- While a command is in flight, a memory access that would be served is held: whoever's turn it is, the engine moves, and
the access stays at the head of the port (R58). -/
def Obligations.MemoryAccessIsHeldWhileBusy : Prop :=
  ∀ (s : State) (sn : Snapshot) (x : Txn) (rest : List Txn),
    s.inFlight = some sn → s.port = x :: rest → ¬ GetsBusError x → 0x1000 ≤ x.addr.toNat →
    ∃ t, step s = .next t ∧ engineStep { s with turns := s.turns.tail } = .next t ∧
      t.port = s.port ∧ t.responses = s.responses ∧ t.inFlight = none

/-- The port serves its transactions one at a time in issue order, with one response each: a step leaves the port and the
responses alone or answers exactly the oldest transaction (R50, R59). -/
def Obligations.PortAnswersInIssueOrder : Prop :=
  ∀ s t : State, step s = .next t →
    (t.port = s.port ∧ t.responses = s.responses) ∨
    ∃ x r, s.port = x :: t.port ∧ t.responses = r :: s.responses

/-- An absolute bus address reaches the block exactly when it lies in [BASE, BASE + 2^31), at its offset from BASE; others
leave the block as it is (R50, R8). -/
def Obligations.OnlyTheWindowReachesTheBlock : Prop :=
  ∀ (s : State) (access : Access) (a size : Nat),
    (∀ k < 2 ^ 31, a = Config.base + k →
      s.issue access a size = { s with port := s.port ++ [⟨access, BitVec.ofNat 31 k, size⟩] }) ∧
    (a < Config.base ∨ Config.base + 2 ^ 31 ≤ a → s.issue access a size = s)

/-! ## The whole machine -/

/-- The invariant holds at reset. -/
def Obligations.InvariantHoldsAtReset : Prop := Invariant State.reset

/-- Every step keeps the invariant: canonical memory, nothing ever written outside the writable memories (R126), the error
record 0 while `ERR` is 0 and a code of R122 while it is 1 (R27, R28), `CMD` the snapshot's word (R45). -/
def Obligations.EveryStepKeepsTheInvariant : Prop :=
  ∀ s t : State, Invariant s → step s = .next t → Invariant t

/-- In this model's schedule (log 2) an accepted command is no longer in flight after at most one step more than there are
turns listed: no listed interleaving delays the engine for ever (R83). -/
def Obligations.EveryCommandEnds : Prop :=
  ∀ s : State, s.busy = true →
    ∃ k t, k ≤ s.turns.length + 1 ∧ Host.Core.run core k s = .next t ∧ t.busy = false

/-- `CMDCOUNT` moves only at a completion, by one, or to 0 at a soft reset: no dropped or aborted command and no
transaction counts (R35, R134). -/
def Obligations.OnlyCompletionsCount : Prop :=
  ∀ s t : State, step s = .next t →
    t.cmdcount = s.cmdcount ∨
    (s.busy = true ∧ t.busy = false ∧ t.done = true ∧ t.port = s.port ∧ t.cmdcount = s.cmdcount + 1) ∨
    (t.cmdcount = 0 ∧ ∃ v : Word, v.getLsbD 0 = true ∧ HeadWrites s 0x010 v)

/-- Memory changes only when a command ends, or when the host writes a memory word while the engine is idle: while a
command stays in flight no step changes a byte (R58, R59). -/
def Obligations.MemoryIsStableWhileBusy : Prop :=
  ∀ s t : State, step s = .next t →
    t.mem = s.mem ∨ (s.busy = true ∧ t.busy = false) ∨
    (s.busy = false ∧ ∃ r i v, r.isMemory = true ∧ i < r.words Config.sigCap ∧
      HeadWrites s (r.wordAddr i) v ∧ t.mem = s.mem.set r i v)

/-- The first error stands: while `ERR` is 1 no step changes `ERR`, `ERRCODE` or `ERRINFO` but a host write of 1 to
`STATUS.ERR`, or a soft reset, and these clear all three (R124). -/
def Obligations.FirstErrorStandsUntilCleared : Prop :=
  ∀ s t : State, s.err = true → step s = .next t →
    (t.err = true ∧ t.errcode = s.errcode ∧ t.errinfo = s.errinfo) ∨
    (t.err = false ∧ t.errcode = 0 ∧ t.errinfo = 0 ∧
      ∃ v : Word, (v.getLsbD 2 = true ∧ HeadWrites s 0x014 v) ∨ (v.getLsbD 0 = true ∧ HeadWrites s 0x010 v))

/-- No command sets a flag or a register from its data: with other memory contents the engine's step leaves every field but
the memory the same (R37, R79). -/
def Obligations.RegistersNeverDependOnData : Prop :=
  ∀ (s t : State) (m : Memory), engineStep s = .next t →
    ∃ m' : Memory, engineStep { s with mem := m } = .next { t with mem := m' }

/-- A command's result depends on its snapshot and the memory alone: not on the live registers, the error record, earlier
commands or the port (R84, R45, R46). For `FWD` and `INV` on data outside the range of R97 this is the model's choice: R97
makes each output word a draw, and the model takes one draw for each argument (log 8). -/
def Obligations.ResultDependsOnSnapshotAndMemory : Prop :=
  ∀ s s' t t' : State, s.inFlight = s'.inFlight → s.mem = s'.mem →
    engineStep s = .next t → engineStep s' = .next t' → t.mem = t'.mem

/-! ## Arithmetic -/

/-- `fmul` (R10). Of finite words: `rne` of the exact product, a zero product with the exclusive or of the signs. With an
infinite operand and no NaN: the canonical NaN against a zero, else the infinity with the exclusive or of the signs. R10
takes these cases from IEEE 754 without listing them (log 11). -/
def Obligations.FmulRoundsTheExactProduct : Prop :=
  ∀ a b : Word,
    (F32.isFinite a = true → F32.isFinite b = true →
      IsRne (F32.toReal a * F32.toReal b) (F32.fmul a b) ∧
      (F32.toReal a * F32.toReal b = 0 → F32.sign (F32.fmul a b) = (F32.sign a ^^ F32.sign b))) ∧
    (F32.isNaN a = false → F32.isNaN b = false → (F32.isInf a || F32.isInf b) = true →
      F32.fmul a b =
        if (F32.isZero a || F32.isZero b) = true then 0x7FC00000#32 else signedInf (F32.sign a ^^ F32.sign b))

/-- `fdiv` (R10). Of a finite word by a finite nonzero word: `rne` of the exact quotient, a zero quotient with the exclusive
or of the signs. By a zero: the canonical NaN for a zero, else the infinity. Of an infinity: the canonical NaN by an
infinity, else the infinity. Of a finite word by an infinity: the zero. Each infinity and zero has the exclusive or of the
signs. R10 takes these cases from IEEE 754 without listing them (log 11). -/
def Obligations.FdivRoundsTheExactQuotient : Prop :=
  ∀ a b : Word,
    (F32.isFinite a = true → F32.isFinite b = true → F32.toReal b ≠ 0 →
      IsRne (F32.toReal a / F32.toReal b) (F32.fdiv a b) ∧
      (F32.toReal a = 0 → F32.sign (F32.fdiv a b) = (F32.sign a ^^ F32.sign b))) ∧
    (F32.isFinite a = true → F32.isZero b = true →
      F32.fdiv a b = if F32.isZero a = true then 0x7FC00000#32 else signedInf (F32.sign a ^^ F32.sign b)) ∧
    (F32.isInf a = true → F32.isNaN b = false →
      F32.fdiv a b = if F32.isInf b = true then 0x7FC00000#32 else signedInf (F32.sign a ^^ F32.sign b)) ∧
    (F32.isFinite a = true → F32.isInf b = true → F32.fdiv a b = signedZero (F32.sign a ^^ F32.sign b))

/-- `fadd` (R10). Of finite words: `rne` of the exact sum, a zero sum +0 unless both operands are -0. With an infinite
operand and no NaN: the canonical NaN for two infinities of opposite signs, else the infinite operand. R10 takes these cases
from IEEE 754 without listing them (log 11). -/
def Obligations.FaddRoundsTheExactSum : Prop :=
  ∀ a b : Word,
    (F32.isFinite a = true → F32.isFinite b = true →
      IsRne (F32.toReal a + F32.toReal b) (F32.fadd a b) ∧
      (F32.toReal a + F32.toReal b = 0 →
        F32.fadd a b = if a = 0x80000000#32 ∧ b = 0x80000000#32 then 0x80000000#32 else 0x00000000#32)) ∧
    (F32.isInf a = true → F32.isInf b = true →
      F32.fadd a b = if F32.sign a = F32.sign b then a else 0x7FC00000#32) ∧
    (F32.isInf a = true → F32.isFinite b = true → F32.fadd a b = a) ∧
    (F32.isFinite a = true → F32.isInf b = true → F32.fadd a b = b)

/-- Every NaN `fmul`, `fdiv` and `fadd` produce is the canonical one (R10), and they produce it exactly for a NaN operand,
infinity times zero, zero by zero and infinity by infinity, and infinities of opposite signs added. The list is IEEE 754's
(log 11). -/
def Obligations.EveryNanResultIsCanonical : Prop :=
  ∀ a b : Word,
    (∀ f ∈ [F32.fmul, F32.fdiv, F32.fadd], F32.isNaN (f a b) = true → f a b = 0x7FC00000#32) ∧
    F32.isNaN (F32.fmul a b) =
      (F32.isNaN a || F32.isNaN b || (F32.isInf a && F32.isZero b) || (F32.isZero a && F32.isInf b)) ∧
    F32.isNaN (F32.fdiv a b) =
      (F32.isNaN a || F32.isNaN b || (F32.isInf a && F32.isInf b) || (F32.isZero a && F32.isZero b)) ∧
    F32.isNaN (F32.fadd a b) =
      (F32.isNaN a || F32.isNaN b || (F32.isInf a && F32.isInf b && (F32.sign a ^^ F32.sign b)))

/-- R86: every entry of `WIN` is the exact window value rounded once to binary32. Rounding leaves the sign of the zero
`WIN[0]` open; `WindowEntriesAsListed` has it. -/
def Obligations.WindowIsCorrectlyRounded : Prop :=
  ∀ n < 4096, IsRne (hann n) (win n)

/-- R88: the selected entries of `WIN`. -/
def Obligations.WindowEntriesAsListed : Prop :=
  [0, 1, 2, 3, 256, 512, 1024, 1536, 2047, 2048, 2049, 2560, 3072, 4095].map win =
    [0x00000000#32, 0x351DE9E4#32, 0x361DE9DE#32, 0x36B1A70F#32, 0x3D1BE50C#32, 0x3E15F61A#32, 0x3F000000#32,
     0x3F5A827A#32, 0x3F7FFFF6#32, 0x3F800000#32, 0x3F7FFFF6#32, 0x3F5A827A#32, 0x3F000000#32, 0x351DE9E4#32]

/-- R110, R111, R112: at a hop H that divides 4096 with 4096 / H >= 3, the overlap-add gain at every interior sample is
exactly 1536 / H, and in exact arithmetic the output of the identity path with NORM = 1536 / H is the channel's sample. -/
def Obligations.InteriorGainIsTheColaConstant : Prop :=
  ∀ L H i : ℕ, H ∣ 4096 → 3 ≤ 4096 / H → Interior L H i →
    gain L H (2048 + i) = 1536 / (H : ℝ) ∧
    ∀ x : ℕ → ℝ, exactOut L H (1536 / (H : ℝ)) x i = x i

/-- R109, R112, R113, R121. In exact arithmetic, at every length, hop and position, the overlap-added identity frames are the
padded signal times the gain, and every output sample, interior or not, is the channel's sample times the gain over NORM. At
hop 1024 the gain over the first 1024 output samples lacks the frame that does not exist; the first sample has gain 1.25.
Through `PACK` and `UNPACK` a frame's spectrum keeps every bin but the six dropped ones, which become 0; the frame `INV` adds
is the identity path's less w(n) * d(n), and so is every overlap-added word; and d is the sum of the DC part, the parts at the
two lowest frequencies and the Nyquist part. -/
def Obligations.EdgeGainLacksTheMissingFrame : Prop :=
  (∀ (L H p : ℕ) (y : ℕ → ℝ), exactOla L H y p = gain L H p * y p) ∧
  (∀ (L H i : ℕ) (norm : ℝ) (x : ℕ → ℝ), i < L → exactOut L H norm x i = x i * gain L H (2048 + i) / norm) ∧
  (∀ L : ℕ, 2048 ≤ L →
    (∀ i < 1024, gain L 1024 (2048 + i) = 1.5 - hann (3072 + i) ^ 2) ∧ gain L 1024 2048 = 1.25) ∧
  (∀ (v : Fin 4096 → ℝ) (k : Fin 4096),
    exactCodec (exactSpectrum v) k = if k ∈ droppedBins then 0 else exactSpectrum v k) ∧
  (∀ (y : ℕ → ℝ) (o : ℕ) (n : Fin 4096),
    codecFrame y o n = exactFrame y o n - hann n.val * droppedComponent (exactWindowed y o) n) ∧
  (∀ (L H p : ℕ) (y : ℕ → ℝ),
    codecOla L H y p =
      gain L H p * y p -
        overlapAdd L H (fun o n => hann n.val * droppedComponent (exactWindowed y o) n) p) ∧
  ∀ (v : Fin 4096 → ℝ) (n : Fin 4096),
    droppedComponent v n = dcPart v + frequencyPart v 1 n + frequencyPart v 2 n + nyquistPart v n
end

