-- ==== Sys2Proof/Laws/Config.lean ====
section
/-! SUPPORT. The bounds of the open parameters (spec/00_scope.md R8): all that is known of them. -/

namespace Sys2Proof

theorem sigCap_ge : 6144 ≤ Config.sigCap := by
  unfold Config.sigCap; omega

theorem sigCap_le : Config.sigCap ≤ 2 ^ 26 := by
  have := Config.sigCapAboveLeast.isLt
  unfold Config.sigCap
  omega

theorem base_multiple : 2 ^ 31 ∣ Config.base := ⟨Config.baseIndex, by unfold Config.base; omega⟩

end Sys2Proof
end

