-- ==== Sys2Proof/Laws/Memory.lean ====
section
/-! SUPPORT. The laws of the memory: what a byte, a word and a region's word read as after a write, that every write keeps
the canonical form, and that memories with equal contents are equal data. -/

namespace Sys2Proof.Machine

/-! ## Lookup -/

@[simp] theorem Memory.lookup_nil (a : Nat) : Memory.lookup [] a = none := rfl

theorem Memory.lookup_append (m n : Memory) (a : Nat) :
    Memory.lookup (m ++ n) a = (Memory.lookup m a).or (Memory.lookup n a) := by
  induction m with
  | nil => simp
  | cons c rest ih =>
    obtain ⟨k, v⟩ := c
    by_cases h : k = a <;> simp [Memory.lookup, h, ih]

theorem Memory.lookup_filter (m : Memory) (p : Nat → Bool) (a : Nat) :
    Memory.lookup (m.filter fun c => p c.1) a = if p a then Memory.lookup m a else none := by
  induction m with
  | nil => simp
  | cons c rest ih =>
    obtain ⟨k, v⟩ := c
    by_cases hk : k = a
    · subst hk
      by_cases hp : p k <;> simp [Memory.lookup, hp, ih]
    · by_cases hp : p k <;> simp [Memory.lookup, hp, hk, ih]

theorem Memory.lookup_cellsFrom (g : Nat → Byte) (lo n a : Nat) :
    Memory.lookup (Memory.cellsFrom g lo n) a = if lo ≤ a ∧ a < lo + n then some (g a) else none := by
  induction n generalizing lo with
  | zero => simp [Memory.cellsFrom]
  | succ n ih =>
    by_cases h : lo = a
    · subst h; simp [Memory.cellsFrom, Memory.lookup]
    · simp only [Memory.cellsFrom, Memory.lookup, if_neg h, ih]
      congr 1
      apply propext
      omega

/-- Read after write, byte by byte: inside the written offsets the new byte, outside the old one. -/
theorem Memory.lookup_writeBytes (m : Memory) (lo n : Nat) (g : Nat → Byte) (a : Nat) :
    (m.writeBytes lo n g).lookup a = if lo ≤ a ∧ a < lo + n then some (g a) else m.lookup a := by
  have h1 := Memory.lookup_filter m (fun k => decide (k < lo)) a
  have h2 := Memory.lookup_filter m (fun k => decide (lo + n ≤ k)) a
  unfold Memory.writeBytes
  rw [Memory.lookup_append, Memory.lookup_append, h1, h2, Memory.lookup_cellsFrom]
  by_cases hin : lo ≤ a ∧ a < lo + n
  · have hlt : ¬ a < lo := by omega
    simp [hin, hlt]
  · by_cases hlt : a < lo
    · have hle : ¬ lo + n ≤ a := by omega
      have hle' : ¬ lo ≤ a := by omega
      simp [hlt, hle, hle']
    · have hle : lo + n ≤ a := by omega
      have hlt' : ¬ a < lo + n := by omega
      simp [hlt, hle, hlt']

theorem Memory.byte_writeBytes (m : Memory) (lo n : Nat) (g : Nat → Byte) (a : Nat) :
    (m.writeBytes lo n g).byte a = if lo ≤ a ∧ a < lo + n then g a else m.byte a := by
  unfold Memory.byte
  rw [Memory.lookup_writeBytes]
  split <;> rfl

/-! ## Membership and the canonical form -/

theorem Memory.mem_cellsFrom {g : Nat → Byte} {lo n : Nat} {c : Host.Cell}
    (h : c ∈ Memory.cellsFrom g lo n) : lo ≤ c.1 ∧ c.1 < lo + n := by
  induction n generalizing lo with
  | zero => simp [Memory.cellsFrom] at h
  | succ n ih =>
    rcases List.mem_cons.mp h with h | h
    · subst h; simp
    · have := ih h; omega

/-- A cell of the memory after a write is an old cell or lies inside the written offsets. -/
theorem Memory.mem_writeBytes {m : Memory} {lo n : Nat} {g : Nat → Byte} {c : Host.Cell}
    (h : c ∈ m.writeBytes lo n g) : c ∈ m ∨ (lo ≤ c.1 ∧ c.1 < lo + n) := by
  unfold Memory.writeBytes at h
  rcases List.mem_append.mp h with h | h
  · rcases List.mem_append.mp h with h | h
    · exact .inl (List.mem_filter.mp h).1
    · exact .inr (Memory.mem_cellsFrom h)
  · exact .inl (List.mem_filter.mp h).1

theorem Memory.cellsFrom_wf (g : Nat → Byte) (lo n : Nat) : Memory.wf (Memory.cellsFrom g lo n) := by
  induction n generalizing lo with
  | zero => exact List.Pairwise.nil
  | succ n ih =>
    refine List.Pairwise.cons (fun c hc => ?_) (ih (lo + 1))
    have := Memory.mem_cellsFrom hc
    show lo < c.1
    omega

/-- A write keeps the canonical form. -/
theorem Memory.writeBytes_wf {m : Memory} (h : m.wf) (lo n : Nat) (g : Nat → Byte) : (m.writeBytes lo n g).wf := by
  unfold Memory.writeBytes Memory.wf
  rw [List.pairwise_append, List.pairwise_append]
  refine ⟨⟨List.Pairwise.filter _ h, Memory.cellsFrom_wf g lo n, ?_⟩, List.Pairwise.filter _ h, ?_⟩
  · intro a ha b hb
    have h1 := (List.mem_filter.mp ha).2
    have h2 := Memory.mem_cellsFrom hb
    simp only [decide_eq_true_eq] at h1
    omega
  · intro a ha b hb
    have h2 := (List.mem_filter.mp hb).2
    simp only [decide_eq_true_eq] at h2
    rcases List.mem_append.mp ha with ha | ha
    · have h1 := (List.mem_filter.mp ha).2
      simp only [decide_eq_true_eq] at h1
      omega
    · have h1 := Memory.mem_cellsFrom ha
      omega

theorem Memory.writeWords_wf {m : Memory} (h : m.wf) (lo n : Nat) (f : Nat → Word) : (m.writeWords lo n f).wf :=
  Memory.writeBytes_wf h _ _ _

theorem Memory.writeWord_wf {m : Memory} (h : m.wf) (a : Nat) (v : Word) : (m.writeWord a v).wf :=
  Memory.writeBytes_wf h _ _ _

theorem Memory.set_wf {m : Memory} (h : m.wf) (r : Region) (i : Nat) (v : Word) : (m.set r i v).wf :=
  Memory.writeBytes_wf h _ _ _

theorem Memory.setRange_wf {m : Memory} (h : m.wf) (r : Region) (first n : Nat) (f : Nat → Word) :
    (m.setRange r first n f).wf :=
  Memory.writeBytes_wf h _ _ _

theorem Memory.redraw_wf {m : Memory} (h : m.wf) (number : Nat) (r : WordRange) : (m.redraw number r).wf :=
  Memory.writeBytes_wf h _ _ _

theorem Memory.reset_wf : State.reset.mem.wf := List.Pairwise.nil

/-- An offset below every listed one is not listed. -/
theorem Memory.lookup_eq_none_of_lt {m : Memory} {a : Nat} (h : ∀ c ∈ m, a < c.1) : m.lookup a = none := by
  induction m with
  | nil => rfl
  | cons c rest ih =>
    obtain ⟨k, v⟩ := c
    have hk : a < k := h (k, v) (by simp)
    rw [Memory.lookup, if_neg (by omega)]
    exact ih fun c hc => h c (by simp [hc])

/-- Equal contents are equal data: two canonical memories that answer every lookup alike are the same list. -/
theorem Memory.ext_of_lookup {m n : Memory} (hm : m.wf) (hn : n.wf) (h : ∀ a, m.lookup a = n.lookup a) : m = n := by
  induction m generalizing n with
  | nil =>
    cases n with
    | nil => rfl
    | cons d n =>
      obtain ⟨l, w⟩ := d
      have := h l
      simp [Memory.lookup] at this
  | cons c m ih =>
    obtain ⟨k, v⟩ := c
    cases n with
    | nil =>
      have := h k
      simp [Memory.lookup] at this
    | cons d n =>
      obtain ⟨l, w⟩ := d
      have hkm : ∀ c ∈ m, k < c.1 := (List.pairwise_cons.mp hm).1
      have hln : ∀ c ∈ n, l < c.1 := (List.pairwise_cons.mp hn).1
      have hkl : k = l := by
        rcases Nat.lt_trichotomy k l with hlt | heq | hgt
        · have hk := h k
          rw [Memory.lookup, if_pos rfl, Memory.lookup, if_neg (by omega),
            Memory.lookup_eq_none_of_lt fun c hc => Nat.lt_trans hlt (hln c hc)] at hk
          cases hk
        · exact heq
        · have hl := h l
          rw [Memory.lookup, if_neg (by omega), Memory.lookup_eq_none_of_lt fun c hc => Nat.lt_trans hgt (hkm c hc),
            Memory.lookup, if_pos rfl] at hl
          cases hl
      subst hkl
      have hv := h k
      rw [Memory.lookup, if_pos rfl, Memory.lookup, if_pos rfl] at hv
      cases hv
      refine congrArg _ (ih (List.pairwise_cons.mp hm).2 (List.pairwise_cons.mp hn).2 fun a => ?_)
      by_cases hka : k = a
      · subst hka
        rw [Memory.lookup_eq_none_of_lt hkm, Memory.lookup_eq_none_of_lt hln]
      · have := h a
        rwa [Memory.lookup, if_neg hka, Memory.lookup, if_neg hka] at this

/-! ## Words -/

theorem wordOfLanes_byteLane (v : Word) : wordOfLanes (byteLane v) = v := by
  unfold wordOfLanes byteLane
  ext i hi
  simp only [BitVec.getElem_append, BitVec.getElem_extractLsb']
  split
  · simp [BitVec.getLsbD_eq_getElem (by omega : i < 32)]
  · split
    · rw [BitVec.getLsbD_eq_getElem (by omega)]; congr 1; omega
    · split
      · rw [BitVec.getLsbD_eq_getElem (by omega)]; congr 1; omega
      · rw [BitVec.getLsbD_eq_getElem (by omega)]; congr 1; omega

/-- A written word reads back (R53). -/
theorem Memory.word_writeWords_inside (m : Memory) (lo n i : Nat) (f : Nat → Word) (h : i < n) :
    (m.writeWords lo n f).word (lo + 4 * i) = f i := by
  have lane : ∀ k, k < 4 → (m.writeWords lo n f).byte (lo + 4 * i + k) = byteLane (f i) k := by
    intro k hk
    unfold Memory.writeWords
    rw [Memory.byte_writeBytes, if_pos (by omega)]
    have e1 : (lo + 4 * i + k - lo) / 4 = i := by omega
    have e2 : (lo + 4 * i + k - lo) % 4 = k := by omega
    simp only [e1, e2]
  rw [← wordOfLanes_byteLane (f i)]
  unfold Memory.word wordOfLanes
  simp only [lane 0 (by omega), lane 1 (by omega), lane 2 (by omega), lane 3 (by omega)]

/-- A word whose four bytes lie outside the written ones is unchanged. -/
theorem Memory.word_writeBytes_outside (m : Memory) (lo n a : Nat) (g : Nat → Byte) (h : a + 4 ≤ lo ∨ lo + n ≤ a) :
    (m.writeBytes lo n g).word a = m.word a := by
  have lane : ∀ k, k < 4 → (m.writeBytes lo n g).byte (a + k) = m.byte (a + k) := by
    intro k hk
    rw [Memory.byte_writeBytes, if_neg (by omega)]
  unfold Memory.word wordOfLanes
  simp only [lane 0 (by omega), lane 1 (by omega), lane 2 (by omega), lane 3 (by omega)]

/-! ## Words of regions -/

/-- `M[first + i]` after a range of writes that covers it. -/
theorem Memory.get_setRange_inside (m : Memory) (r : Region) (first n i : Nat) (f : Nat → Word)
    (h1 : first ≤ i) (h2 : i < first + n) : (m.setRange r first n f).get r i = f (i - first) := by
  unfold Memory.setRange Memory.get
  have : r.wordAddr i = r.wordAddr first + 4 * (i - first) := by unfold Region.wordAddr; omega
  rw [this, Memory.word_writeWords_inside _ _ _ _ _ (by omega)]

/-- A word whose address lies outside a range of writes is unchanged. -/
theorem Memory.get_setRange_outside (m : Memory) (r q : Region) (first n i : Nat) (f : Nat → Word)
    (h : q.wordAddr i + 4 ≤ r.wordAddr first ∨ r.wordAddr first + 4 * n ≤ q.wordAddr i) :
    (m.setRange r first n f).get q i = m.get q i :=
  Memory.word_writeBytes_outside _ _ _ _ _ h

/-- `M[i] <- v`, read back. -/
@[simp] theorem Memory.get_set_self (m : Memory) (r : Region) (i : Nat) (v : Word) : (m.set r i v).get r i = v :=
  Memory.word_writeWords_inside m (r.wordAddr i) 1 0 (fun _ => v) (by omega)

theorem Memory.get_set_outside (m : Memory) (r q : Region) (i j : Nat) (v : Word)
    (h : q.wordAddr j + 4 ≤ r.wordAddr i ∨ r.wordAddr i + 4 ≤ q.wordAddr j) : (m.set r i v).get q j = m.get q j :=
  Memory.word_writeBytes_outside _ _ _ _ _ (by simpa using h)

/-- What a byte outside a range of writes reads as. -/
theorem Memory.byte_setRange_outside (m : Memory) (r : Region) (first n a : Nat) (f : Nat → Word)
    (h : a < r.wordAddr first ∨ r.wordAddr first + 4 * n ≤ a) : (m.setRange r first n f).byte a = m.byte a := by
  unfold Memory.setRange Memory.writeWords
  rw [Memory.byte_writeBytes, if_neg (by omega)]

end Sys2Proof.Machine
end

