-- ==== Sys2Proof/Laws/State.lean ====
section
/-! SUPPORT. One lemma per field and update of the state, all true by unfolding the update once, so that no later proof
unfolds a record update. -/

namespace Sys2Proof.Machine

namespace State

/-! ## `accept` (R76) -/

@[simp] theorem accept_irqen (s : State) (v : Word) : (s.accept v).irqen = s.irqen := rfl
@[simp] theorem accept_done (s : State) (v : Word) : (s.accept v).done = s.done := rfl
@[simp] theorem accept_err (s : State) (v : Word) : (s.accept v).err = s.err := rfl
@[simp] theorem accept_ovr (s : State) (v : Word) : (s.accept v).ovr = s.ovr := rfl
@[simp] theorem accept_errcode (s : State) (v : Word) : (s.accept v).errcode = s.errcode := rfl
@[simp] theorem accept_errinfo (s : State) (v : Word) : (s.accept v).errinfo = s.errinfo := rfl
@[simp] theorem accept_cmd (s : State) (v : Word) : (s.accept v).cmd = v := rfl
@[simp] theorem accept_len (s : State) (v : Word) : (s.accept v).len = s.len := rfl
@[simp] theorem accept_hop (s : State) (v : Word) : (s.accept v).hop = s.hop := rfl
@[simp] theorem accept_norm (s : State) (v : Word) : (s.accept v).norm = s.norm := rfl
@[simp] theorem accept_framebase (s : State) (v : Word) : (s.accept v).framebase = s.framebase := rfl
@[simp] theorem accept_cmdcount (s : State) (v : Word) : (s.accept v).cmdcount = s.cmdcount := rfl
@[simp] theorem accept_inFlight (s : State) (v : Word) : (s.accept v).inFlight = some (s.latch v) := rfl
@[simp] theorem accept_mem (s : State) (v : Word) : (s.accept v).mem = s.mem := rfl
@[simp] theorem accept_port (s : State) (v : Word) : (s.accept v).port = s.port := rfl
@[simp] theorem accept_responses (s : State) (v : Word) : (s.accept v).responses = s.responses := rfl
@[simp] theorem accept_turns (s : State) (v : Word) : (s.accept v).turns = s.turns := rfl
@[simp] theorem accept_draws (s : State) (v : Word) : (s.accept v).draws = s.draws := rfl

/-! ## `complete` (R80) -/

@[simp] theorem complete_irqen (s : State) : (s.complete).irqen = s.irqen := rfl
@[simp] theorem complete_done (s : State) : (s.complete).done = true := rfl
@[simp] theorem complete_err (s : State) : (s.complete).err = s.err := rfl
@[simp] theorem complete_ovr (s : State) : (s.complete).ovr = s.ovr := rfl
@[simp] theorem complete_errcode (s : State) : (s.complete).errcode = s.errcode := rfl
@[simp] theorem complete_errinfo (s : State) : (s.complete).errinfo = s.errinfo := rfl
@[simp] theorem complete_cmd (s : State) : (s.complete).cmd = s.cmd := rfl
@[simp] theorem complete_len (s : State) : (s.complete).len = s.len := rfl
@[simp] theorem complete_hop (s : State) : (s.complete).hop = s.hop := rfl
@[simp] theorem complete_norm (s : State) : (s.complete).norm = s.norm := rfl
@[simp] theorem complete_framebase (s : State) : (s.complete).framebase = s.framebase := rfl
@[simp] theorem complete_cmdcount (s : State) : (s.complete).cmdcount = s.cmdcount + 1 := rfl
@[simp] theorem complete_inFlight (s : State) : (s.complete).inFlight = none := rfl
@[simp] theorem complete_mem (s : State) : (s.complete).mem = s.mem := rfl
@[simp] theorem complete_port (s : State) : (s.complete).port = s.port := rfl
@[simp] theorem complete_responses (s : State) : (s.complete).responses = s.responses := rfl
@[simp] theorem complete_turns (s : State) : (s.complete).turns = s.turns := rfl
@[simp] theorem complete_draws (s : State) : (s.complete).draws = s.draws := rfl

/-! ## `clearError` (R26) -/

@[simp] theorem clearError_irqen (s : State) : (s.clearError).irqen = s.irqen := rfl
@[simp] theorem clearError_done (s : State) : (s.clearError).done = s.done := rfl
@[simp] theorem clearError_err (s : State) : (s.clearError).err = false := rfl
@[simp] theorem clearError_ovr (s : State) : (s.clearError).ovr = s.ovr := rfl
@[simp] theorem clearError_errcode (s : State) : (s.clearError).errcode = 0 := rfl
@[simp] theorem clearError_errinfo (s : State) : (s.clearError).errinfo = 0 := rfl
@[simp] theorem clearError_cmd (s : State) : (s.clearError).cmd = s.cmd := rfl
@[simp] theorem clearError_len (s : State) : (s.clearError).len = s.len := rfl
@[simp] theorem clearError_hop (s : State) : (s.clearError).hop = s.hop := rfl
@[simp] theorem clearError_norm (s : State) : (s.clearError).norm = s.norm := rfl
@[simp] theorem clearError_framebase (s : State) : (s.clearError).framebase = s.framebase := rfl
@[simp] theorem clearError_cmdcount (s : State) : (s.clearError).cmdcount = s.cmdcount := rfl
@[simp] theorem clearError_inFlight (s : State) : (s.clearError).inFlight = s.inFlight := rfl
@[simp] theorem clearError_mem (s : State) : (s.clearError).mem = s.mem := rfl
@[simp] theorem clearError_port (s : State) : (s.clearError).port = s.port := rfl
@[simp] theorem clearError_responses (s : State) : (s.clearError).responses = s.responses := rfl
@[simp] theorem clearError_turns (s : State) : (s.clearError).turns = s.turns := rfl
@[simp] theorem clearError_draws (s : State) : (s.clearError).draws = s.draws := rfl

/-! ## `writeIrqen` (R25) -/

@[simp] theorem writeIrqen_irqen (s : State) (v : Word) : (s.writeIrqen v).irqen = v.getLsbD 1 := rfl
@[simp] theorem writeIrqen_done (s : State) (v : Word) : (s.writeIrqen v).done = s.done := rfl
@[simp] theorem writeIrqen_err (s : State) (v : Word) : (s.writeIrqen v).err = s.err := rfl
@[simp] theorem writeIrqen_ovr (s : State) (v : Word) : (s.writeIrqen v).ovr = s.ovr := rfl
@[simp] theorem writeIrqen_errcode (s : State) (v : Word) : (s.writeIrqen v).errcode = s.errcode := rfl
@[simp] theorem writeIrqen_errinfo (s : State) (v : Word) : (s.writeIrqen v).errinfo = s.errinfo := rfl
@[simp] theorem writeIrqen_cmd (s : State) (v : Word) : (s.writeIrqen v).cmd = s.cmd := rfl
@[simp] theorem writeIrqen_len (s : State) (v : Word) : (s.writeIrqen v).len = s.len := rfl
@[simp] theorem writeIrqen_hop (s : State) (v : Word) : (s.writeIrqen v).hop = s.hop := rfl
@[simp] theorem writeIrqen_norm (s : State) (v : Word) : (s.writeIrqen v).norm = s.norm := rfl
@[simp] theorem writeIrqen_framebase (s : State) (v : Word) : (s.writeIrqen v).framebase = s.framebase := rfl
@[simp] theorem writeIrqen_cmdcount (s : State) (v : Word) : (s.writeIrqen v).cmdcount = s.cmdcount := rfl
@[simp] theorem writeIrqen_inFlight (s : State) (v : Word) : (s.writeIrqen v).inFlight = s.inFlight := rfl
@[simp] theorem writeIrqen_mem (s : State) (v : Word) : (s.writeIrqen v).mem = s.mem := rfl
@[simp] theorem writeIrqen_port (s : State) (v : Word) : (s.writeIrqen v).port = s.port := rfl
@[simp] theorem writeIrqen_responses (s : State) (v : Word) : (s.writeIrqen v).responses = s.responses := rfl
@[simp] theorem writeIrqen_turns (s : State) (v : Word) : (s.writeIrqen v).turns = s.turns := rfl
@[simp] theorem writeIrqen_draws (s : State) (v : Word) : (s.writeIrqen v).draws = s.draws := rfl

/-! ## `afterTurn` (R75) -/

@[simp] theorem afterTurn_irqen (s : State) : (s.afterTurn).irqen = s.irqen := rfl
@[simp] theorem afterTurn_done (s : State) : (s.afterTurn).done = s.done := rfl
@[simp] theorem afterTurn_err (s : State) : (s.afterTurn).err = s.err := rfl
@[simp] theorem afterTurn_ovr (s : State) : (s.afterTurn).ovr = s.ovr := rfl
@[simp] theorem afterTurn_errcode (s : State) : (s.afterTurn).errcode = s.errcode := rfl
@[simp] theorem afterTurn_errinfo (s : State) : (s.afterTurn).errinfo = s.errinfo := rfl
@[simp] theorem afterTurn_cmd (s : State) : (s.afterTurn).cmd = s.cmd := rfl
@[simp] theorem afterTurn_len (s : State) : (s.afterTurn).len = s.len := rfl
@[simp] theorem afterTurn_hop (s : State) : (s.afterTurn).hop = s.hop := rfl
@[simp] theorem afterTurn_norm (s : State) : (s.afterTurn).norm = s.norm := rfl
@[simp] theorem afterTurn_framebase (s : State) : (s.afterTurn).framebase = s.framebase := rfl
@[simp] theorem afterTurn_cmdcount (s : State) : (s.afterTurn).cmdcount = s.cmdcount := rfl
@[simp] theorem afterTurn_inFlight (s : State) : (s.afterTurn).inFlight = s.inFlight := rfl
@[simp] theorem afterTurn_mem (s : State) : (s.afterTurn).mem = s.mem := rfl
@[simp] theorem afterTurn_port (s : State) : (s.afterTurn).port = s.port := rfl
@[simp] theorem afterTurn_responses (s : State) : (s.afterTurn).responses = s.responses := rfl
@[simp] theorem afterTurn_turns (s : State) : (s.afterTurn).turns = s.turns.tail := rfl
@[simp] theorem afterTurn_draws (s : State) : (s.afterTurn).draws = s.draws := rfl

/-! ## `withFetchWord` -/

@[simp] theorem withFetchWord_irqen (s : State) (nbits w : Nat) : (s.withFetchWord nbits w).irqen = s.irqen := rfl
@[simp] theorem withFetchWord_done (s : State) (nbits w : Nat) : (s.withFetchWord nbits w).done = s.done := rfl
@[simp] theorem withFetchWord_err (s : State) (nbits w : Nat) : (s.withFetchWord nbits w).err = s.err := rfl
@[simp] theorem withFetchWord_ovr (s : State) (nbits w : Nat) : (s.withFetchWord nbits w).ovr = s.ovr := rfl
@[simp] theorem withFetchWord_errcode (s : State) (nbits w : Nat) : (s.withFetchWord nbits w).errcode = s.errcode := rfl
@[simp] theorem withFetchWord_errinfo (s : State) (nbits w : Nat) : (s.withFetchWord nbits w).errinfo = s.errinfo := rfl
@[simp] theorem withFetchWord_cmd (s : State) (nbits w : Nat) : (s.withFetchWord nbits w).cmd = BitVec.ofNat 32 (w % 2 ^ nbits) := rfl
@[simp] theorem withFetchWord_len (s : State) (nbits w : Nat) : (s.withFetchWord nbits w).len = s.len := rfl
@[simp] theorem withFetchWord_hop (s : State) (nbits w : Nat) : (s.withFetchWord nbits w).hop = s.hop := rfl
@[simp] theorem withFetchWord_norm (s : State) (nbits w : Nat) : (s.withFetchWord nbits w).norm = s.norm := rfl
@[simp] theorem withFetchWord_framebase (s : State) (nbits w : Nat) : (s.withFetchWord nbits w).framebase = s.framebase := rfl
@[simp] theorem withFetchWord_cmdcount (s : State) (nbits w : Nat) : (s.withFetchWord nbits w).cmdcount = s.cmdcount := rfl
@[simp] theorem withFetchWord_inFlight (s : State) (nbits w : Nat) : (s.withFetchWord nbits w).inFlight = some (s.latch (BitVec.ofNat 32 (w % 2 ^ nbits))) := rfl
@[simp] theorem withFetchWord_mem (s : State) (nbits w : Nat) : (s.withFetchWord nbits w).mem = s.mem := rfl
@[simp] theorem withFetchWord_port (s : State) (nbits w : Nat) : (s.withFetchWord nbits w).port = s.port := rfl
@[simp] theorem withFetchWord_responses (s : State) (nbits w : Nat) : (s.withFetchWord nbits w).responses = s.responses := rfl
@[simp] theorem withFetchWord_turns (s : State) (nbits w : Nat) : (s.withFetchWord nbits w).turns = .engine :: s.turns := rfl
@[simp] theorem withFetchWord_draws (s : State) (nbits w : Nat) : (s.withFetchWord nbits w).draws = s.draws := rfl

/-! ## `softReset` (R140) -/

@[simp] theorem softReset_irqen (s : State) (cap : Nat) : (s.softReset cap).irqen = reset.irqen := rfl
@[simp] theorem softReset_done (s : State) (cap : Nat) : (s.softReset cap).done = reset.done := rfl
@[simp] theorem softReset_err (s : State) (cap : Nat) : (s.softReset cap).err = reset.err := rfl
@[simp] theorem softReset_ovr (s : State) (cap : Nat) : (s.softReset cap).ovr = reset.ovr := rfl
@[simp] theorem softReset_errcode (s : State) (cap : Nat) : (s.softReset cap).errcode = reset.errcode := rfl
@[simp] theorem softReset_errinfo (s : State) (cap : Nat) : (s.softReset cap).errinfo = reset.errinfo := rfl
@[simp] theorem softReset_cmd (s : State) (cap : Nat) : (s.softReset cap).cmd = reset.cmd := rfl
@[simp] theorem softReset_len (s : State) (cap : Nat) : (s.softReset cap).len = reset.len := rfl
@[simp] theorem softReset_hop (s : State) (cap : Nat) : (s.softReset cap).hop = reset.hop := rfl
@[simp] theorem softReset_norm (s : State) (cap : Nat) : (s.softReset cap).norm = reset.norm := rfl
@[simp] theorem softReset_framebase (s : State) (cap : Nat) : (s.softReset cap).framebase = reset.framebase := rfl
@[simp] theorem softReset_cmdcount (s : State) (cap : Nat) : (s.softReset cap).cmdcount = reset.cmdcount := rfl
@[simp] theorem softReset_inFlight (s : State) (cap : Nat) : (s.softReset cap).inFlight = reset.inFlight := rfl
@[simp] theorem softReset_mem (s : State) (cap : Nat) : (s.softReset cap).mem = s.memAfterAbort cap := rfl
@[simp] theorem softReset_port (s : State) (cap : Nat) : (s.softReset cap).port = s.port := rfl
@[simp] theorem softReset_responses (s : State) (cap : Nat) : (s.softReset cap).responses = s.responses := rfl
@[simp] theorem softReset_turns (s : State) (cap : Nat) : (s.softReset cap).turns = s.turns := rfl
@[simp] theorem softReset_draws (s : State) (cap : Nat) : (s.softReset cap).draws = if s.busy then s.draws + 1 else s.draws := rfl

/-! ## `recordError` (R81) -/

@[simp] theorem recordError_irqen (s : State) (e : CmdError) (word : Word) : (s.recordError e word).irqen = s.irqen := by
  unfold recordError; split <;> simp_all
@[simp] theorem recordError_done (s : State) (e : CmdError) (word : Word) : (s.recordError e word).done = s.done := by
  unfold recordError; split <;> simp_all
@[simp] theorem recordError_err (s : State) (e : CmdError) (word : Word) : (s.recordError e word).err = true := by
  unfold recordError; split <;> simp_all
@[simp] theorem recordError_ovr (s : State) (e : CmdError) (word : Word) : (s.recordError e word).ovr = s.ovr := by
  unfold recordError; split <;> simp_all
@[simp] theorem recordError_errcode (s : State) (e : CmdError) (word : Word) : (s.recordError e word).errcode = if s.err then s.errcode else e.code := by
  unfold recordError; split <;> simp_all
@[simp] theorem recordError_errinfo (s : State) (e : CmdError) (word : Word) : (s.recordError e word).errinfo = if s.err then s.errinfo else word := by
  unfold recordError; split <;> simp_all
@[simp] theorem recordError_cmd (s : State) (e : CmdError) (word : Word) : (s.recordError e word).cmd = s.cmd := by
  unfold recordError; split <;> simp_all
@[simp] theorem recordError_len (s : State) (e : CmdError) (word : Word) : (s.recordError e word).len = s.len := by
  unfold recordError; split <;> simp_all
@[simp] theorem recordError_hop (s : State) (e : CmdError) (word : Word) : (s.recordError e word).hop = s.hop := by
  unfold recordError; split <;> simp_all
@[simp] theorem recordError_norm (s : State) (e : CmdError) (word : Word) : (s.recordError e word).norm = s.norm := by
  unfold recordError; split <;> simp_all
@[simp] theorem recordError_framebase (s : State) (e : CmdError) (word : Word) : (s.recordError e word).framebase = s.framebase := by
  unfold recordError; split <;> simp_all
@[simp] theorem recordError_cmdcount (s : State) (e : CmdError) (word : Word) : (s.recordError e word).cmdcount = s.cmdcount := by
  unfold recordError; split <;> simp_all
@[simp] theorem recordError_inFlight (s : State) (e : CmdError) (word : Word) : (s.recordError e word).inFlight = s.inFlight := by
  unfold recordError; split <;> simp_all
@[simp] theorem recordError_mem (s : State) (e : CmdError) (word : Word) : (s.recordError e word).mem = s.mem := by
  unfold recordError; split <;> simp_all
@[simp] theorem recordError_port (s : State) (e : CmdError) (word : Word) : (s.recordError e word).port = s.port := by
  unfold recordError; split <;> simp_all
@[simp] theorem recordError_responses (s : State) (e : CmdError) (word : Word) : (s.recordError e word).responses = s.responses := by
  unfold recordError; split <;> simp_all
@[simp] theorem recordError_turns (s : State) (e : CmdError) (word : Word) : (s.recordError e word).turns = s.turns := by
  unfold recordError; split <;> simp_all
@[simp] theorem recordError_draws (s : State) (e : CmdError) (word : Word) : (s.recordError e word).draws = s.draws := by
  unfold recordError; split <;> simp_all

/-! ## `completeWithError` (R81) -/

@[simp] theorem completeWithError_irqen (s : State) (e : CmdError) (word : Word) : (s.completeWithError e word).irqen = s.irqen := by
  simp [completeWithError]
@[simp] theorem completeWithError_done (s : State) (e : CmdError) (word : Word) : (s.completeWithError e word).done = true := by
  simp [completeWithError]
@[simp] theorem completeWithError_err (s : State) (e : CmdError) (word : Word) : (s.completeWithError e word).err = true := by
  simp [completeWithError]
@[simp] theorem completeWithError_ovr (s : State) (e : CmdError) (word : Word) : (s.completeWithError e word).ovr = s.ovr := by
  simp [completeWithError]
@[simp] theorem completeWithError_errcode (s : State) (e : CmdError) (word : Word) : (s.completeWithError e word).errcode = if s.err then s.errcode else e.code := by
  simp [completeWithError]
@[simp] theorem completeWithError_errinfo (s : State) (e : CmdError) (word : Word) : (s.completeWithError e word).errinfo = if s.err then s.errinfo else word := by
  simp [completeWithError]
@[simp] theorem completeWithError_cmd (s : State) (e : CmdError) (word : Word) : (s.completeWithError e word).cmd = s.cmd := by
  simp [completeWithError]
@[simp] theorem completeWithError_len (s : State) (e : CmdError) (word : Word) : (s.completeWithError e word).len = s.len := by
  simp [completeWithError]
@[simp] theorem completeWithError_hop (s : State) (e : CmdError) (word : Word) : (s.completeWithError e word).hop = s.hop := by
  simp [completeWithError]
@[simp] theorem completeWithError_norm (s : State) (e : CmdError) (word : Word) : (s.completeWithError e word).norm = s.norm := by
  simp [completeWithError]
@[simp] theorem completeWithError_framebase (s : State) (e : CmdError) (word : Word) : (s.completeWithError e word).framebase = s.framebase := by
  simp [completeWithError]
@[simp] theorem completeWithError_cmdcount (s : State) (e : CmdError) (word : Word) : (s.completeWithError e word).cmdcount = s.cmdcount + 1 := by
  simp [completeWithError]
@[simp] theorem completeWithError_inFlight (s : State) (e : CmdError) (word : Word) : (s.completeWithError e word).inFlight = none := by
  simp [completeWithError]
@[simp] theorem completeWithError_mem (s : State) (e : CmdError) (word : Word) : (s.completeWithError e word).mem = s.mem := by
  simp [completeWithError]
@[simp] theorem completeWithError_port (s : State) (e : CmdError) (word : Word) : (s.completeWithError e word).port = s.port := by
  simp [completeWithError]
@[simp] theorem completeWithError_responses (s : State) (e : CmdError) (word : Word) : (s.completeWithError e word).responses = s.responses := by
  simp [completeWithError]
@[simp] theorem completeWithError_turns (s : State) (e : CmdError) (word : Word) : (s.completeWithError e word).turns = s.turns := by
  simp [completeWithError]
@[simp] theorem completeWithError_draws (s : State) (e : CmdError) (word : Word) : (s.completeWithError e word).draws = s.draws := by
  simp [completeWithError]

/-! ## `writeStatus` (R26) -/

@[simp] theorem writeStatus_irqen (s : State) (v : Word) : (s.writeStatus v).irqen = s.irqen := by
  unfold writeStatus; split <;> simp_all
@[simp] theorem writeStatus_done (s : State) (v : Word) : (s.writeStatus v).done = (s.done && !v.getLsbD 1) := by
  unfold writeStatus; split <;> simp_all
@[simp] theorem writeStatus_err (s : State) (v : Word) : (s.writeStatus v).err = (s.err && !v.getLsbD 2) := by
  unfold writeStatus; split <;> simp_all
@[simp] theorem writeStatus_ovr (s : State) (v : Word) : (s.writeStatus v).ovr = (s.ovr && !v.getLsbD 3) := by
  unfold writeStatus; split <;> simp_all
@[simp] theorem writeStatus_errcode (s : State) (v : Word) : (s.writeStatus v).errcode = if v.getLsbD 2 then 0 else s.errcode := by
  unfold writeStatus; split <;> simp_all
@[simp] theorem writeStatus_errinfo (s : State) (v : Word) : (s.writeStatus v).errinfo = if v.getLsbD 2 then 0 else s.errinfo := by
  unfold writeStatus; split <;> simp_all
@[simp] theorem writeStatus_cmd (s : State) (v : Word) : (s.writeStatus v).cmd = s.cmd := by
  unfold writeStatus; split <;> simp_all
@[simp] theorem writeStatus_len (s : State) (v : Word) : (s.writeStatus v).len = s.len := by
  unfold writeStatus; split <;> simp_all
@[simp] theorem writeStatus_hop (s : State) (v : Word) : (s.writeStatus v).hop = s.hop := by
  unfold writeStatus; split <;> simp_all
@[simp] theorem writeStatus_norm (s : State) (v : Word) : (s.writeStatus v).norm = s.norm := by
  unfold writeStatus; split <;> simp_all
@[simp] theorem writeStatus_framebase (s : State) (v : Word) : (s.writeStatus v).framebase = s.framebase := by
  unfold writeStatus; split <;> simp_all
@[simp] theorem writeStatus_cmdcount (s : State) (v : Word) : (s.writeStatus v).cmdcount = s.cmdcount := by
  unfold writeStatus; split <;> simp_all
@[simp] theorem writeStatus_inFlight (s : State) (v : Word) : (s.writeStatus v).inFlight = s.inFlight := by
  unfold writeStatus; split <;> simp_all
@[simp] theorem writeStatus_mem (s : State) (v : Word) : (s.writeStatus v).mem = s.mem := by
  unfold writeStatus; split <;> simp_all
@[simp] theorem writeStatus_port (s : State) (v : Word) : (s.writeStatus v).port = s.port := by
  unfold writeStatus; split <;> simp_all
@[simp] theorem writeStatus_responses (s : State) (v : Word) : (s.writeStatus v).responses = s.responses := by
  unfold writeStatus; split <;> simp_all
@[simp] theorem writeStatus_turns (s : State) (v : Word) : (s.writeStatus v).turns = s.turns := by
  unfold writeStatus; split <;> simp_all
@[simp] theorem writeStatus_draws (s : State) (v : Word) : (s.writeStatus v).draws = s.draws := by
  unfold writeStatus; split <;> simp_all

end State

/-! ## The snapshot `latch` takes (R45, R76) -/

@[simp] theorem State.latch_cmd (s : State) (v : Word) : (s.latch v).cmd = v := rfl
@[simp] theorem State.latch_len (s : State) (v : Word) : (s.latch v).len = s.len := rfl
@[simp] theorem State.latch_hop (s : State) (v : Word) : (s.latch v).hop = s.hop := rfl
@[simp] theorem State.latch_norm (s : State) (v : Word) : (s.latch v).norm = s.norm := rfl
@[simp] theorem State.latch_framebase (s : State) (v : Word) : (s.latch v).framebase = s.framebase := rfl

/-! ## `busy` (R26) -/

@[simp] theorem State.busy_accept (s : State) (v : Word) : (s.accept v).busy = true := rfl
@[simp] theorem State.busy_complete (s : State) : s.complete.busy = false := rfl
@[simp] theorem State.busy_completeWithError (s : State) (e : CmdError) (word : Word) :
    (s.completeWithError e word).busy = false := by simp [State.busy]
@[simp] theorem State.busy_afterTurn (s : State) : s.afterTurn.busy = s.busy := rfl
@[simp] theorem State.busy_softReset (s : State) (cap : Nat) : (s.softReset cap).busy = false := rfl
@[simp] theorem State.busy_withFetchWord (s : State) (nbits w : Nat) : (s.withFetchWord nbits w).busy = true := rfl

theorem State.busy_iff (s : State) : s.busy = true ↔ ∃ sn, s.inFlight = some sn := by
  simp [State.busy, Option.isSome_iff_exists]

end Sys2Proof.Machine
end

