-- ==== Sys2Proof/Laws/Ops.lean ====
section
/-! SUPPORT. What each shared operation can do, said once: validation, running a command, serving a transaction, one step.
Later proofs cite these instead of unfolding. -/

namespace Sys2Proof.Machine

/-! ## Validation (R79) -/

/-- A command passes validation exactly when no row of R79 holds. -/
theorem validate_eq_none_iff (cap : Nat) (i : Instr) (sn : Snapshot) :
    validate cap i sn = none ↔
      (batchOperands i).any (fun b => batchOverflows b.1 b.2) = false ∧
      (needsChannel i && capacityExceeded cap sn) = false ∧
      ((frameOperands i).isSome && sn.hop == 0) = false ∧
      (checksLength i && decide (sn.length < 2048)) = false ∧
      (frameOperands i).any (fun count => lastFrameOutside count sn) = false ∧
      (checksNorm i && normUnusable sn.norm) = false := by
  unfold validate
  repeat' split
  all_goals simp_all

/-! ## Running a command (R78) -/

theorem runCommand_idle {cap : Nat} {i : Instr} {perform : Snapshot → Memory → Memory} {s : State}
    (h : s.inFlight = none) : runCommand cap i perform s = s := by
  simp [runCommand, h]

theorem runCommand_error {cap : Nat} {i : Instr} {perform : Snapshot → Memory → Memory} {s : State} {sn : Snapshot}
    {e : CmdError} (h : s.inFlight = some sn) (hv : validate cap i sn = some e) :
    runCommand cap i perform s = s.completeWithError e sn.cmd := by
  simp [runCommand, h, hv]

theorem runCommand_valid {cap : Nat} {i : Instr} {perform : Snapshot → Memory → Memory} {s : State} {sn : Snapshot}
    (h : s.inFlight = some sn) (hv : validate cap i sn = none) :
    runCommand cap i perform s = State.complete { s with mem := perform sn s.mem } := by
  simp [runCommand, h, hv]

/-- Everything a command can do: nothing while none is in flight, completion with the first error, or its effect and
completion. -/
theorem runCommand_cases (cap : Nat) (i : Instr) (perform : Snapshot → Memory → Memory) (s : State) :
    (s.inFlight = none ∧ runCommand cap i perform s = s) ∨
    ∃ sn, s.inFlight = some sn ∧
      ((∃ e, validate cap i sn = some e ∧ runCommand cap i perform s = s.completeWithError e sn.cmd) ∨
       (validate cap i sn = none ∧
        runCommand cap i perform s = State.complete { s with mem := perform sn s.mem })) := by
  cases h : s.inFlight with
  | none => exact .inl ⟨rfl, runCommand_idle h⟩
  | some sn =>
    refine .inr ⟨sn, rfl, ?_⟩
    cases hv : validate cap i sn with
    | some e => exact .inl ⟨e, rfl, runCommand_error h hv⟩
    | none => exact .inr ⟨rfl, runCommand_valid h hv⟩

/-- Every arm of exec is the shared run of its command's effect. -/
theorem exec_eq_runCommand (i : Instr) (s : State) :
    exec i s = .next (runCommand Config.sigCap i (effect i) s) := by
  cases i <;> rfl

/-! ## Regions (R51) -/

/- Rewrite with these and not with `Region.words`: unfolding a subtraction of a numeral runs into its successors. -/
@[simp] theorem Region.words_registers (cap : Nat) : Region.words cap .registers = 1024 := rfl
@[simp] theorem Region.words_win (cap : Nat) : Region.words cap .win = 4096 := rfl
@[simp] theorem Region.words_ten (cap : Nat) : Region.words cap .ten = 2097152 := rfl
@[simp] theorem Region.words_spec (cap : Nat) (c : Channel) : Region.words cap (.spec c) = 2097152 := rfl
@[simp] theorem Region.words_sig (cap : Nat) (c : Channel) : Region.words cap (.sig c) = cap := rfl
@[simp] theorem Region.words_ola (cap : Nat) (c : Channel) : Region.words cap (.ola c) = cap := rfl
@[simp] theorem Region.words_out (cap : Nat) : Region.words cap .out = 2 * (cap - 4096) := rfl

theorem regionOf_some {cap a : Nat} {r : Region} (h : regionOf cap a = some r) :
    r.start ≤ a ∧ a < r.stop ∧ r.wordIndex a < r.words cap := by
  have := List.find?_some h
  simp only [Bool.and_eq_true, decide_eq_true_eq] at this
  exact ⟨this.1.1, this.1.2, this.2⟩

/-- An aligned offset of a region is the address of its word. -/
theorem wordAddr_wordIndex {r : Region} {a : Nat} (h : r.start ≤ a) (ha : a % 4 = 0) :
    r.wordAddr (r.wordIndex a) = a := by
  have hs : r.start % 4 = 0 := by
    cases r with
    | registers => rfl
    | win => rfl
    | ten => rfl
    | spec c => cases c <;> rfl
    | sig c => cases c <;> rfl
    | ola c => cases c <;> rfl
    | out => rfl
  unfold Region.wordAddr Region.wordIndex
  omega

/-! ## Serving a transaction (R53) -/

/-- A transaction that is served is an aligned word access to the populated words of a region, and no write of `WIN`. -/
theorem Txn.target_some {cap : Nat} {t : Txn} {r : Region} (h : Txn.target cap t = some r) :
    t.size = 4 ∧ t.addr.toNat % 4 = 0 ∧ regionOf cap t.addr.toNat = some r ∧
      ∀ v, t.access = .write v → r ≠ .win := by
  unfold Txn.target at h
  split at h
  · cases h
  · rename_i hok
    rw [not_or, not_not, not_not] at hok
    split at h
    · cases h
    · rename_i hne
      refine ⟨hok.1, hok.2, h, fun v hv hr => ?_⟩
      subst hr
      exact hne v h hv

/-- What serving a transaction can do to the state: nothing, one register write, or one memory word written. -/
theorem Txn.effect_cases (cap : Nat) (t : Txn) (s : State) :
    Txn.effect cap t s = s ∨
    (∃ v, t.access = .write v ∧ Txn.target cap t = some .registers ∧
      Txn.effect cap t s = regWrite cap s v (regAt t.addr.toNat)) ∨
    (∃ v r, t.access = .write v ∧ Txn.target cap t = some r ∧ r.isMemory = true ∧
      Txn.effect cap t s = { s with mem := s.mem.set r (r.wordIndex t.addr.toNat) v }) := by
  cases ht : Txn.target cap t with
  | none => simp [Txn.effect, ht]
  | some r =>
    cases ha : t.access with
    | read => simp [Txn.effect, ht, ha]
    | write v =>
      cases r with
      | registers => exact .inr (.inl ⟨v, rfl, rfl, by simp [Txn.effect, ht, ha, writeTarget]⟩)
      | win => exact absurd rfl ((Txn.target_some ht).2.2.2 v ha)
      | ten => exact .inr (.inr ⟨v, _, rfl, rfl, rfl, by simp [Txn.effect, ht, ha, writeTarget]⟩)
      | spec c => exact .inr (.inr ⟨v, _, rfl, rfl, rfl, by simp [Txn.effect, ht, ha, writeTarget]⟩)
      | sig c => exact .inr (.inr ⟨v, _, rfl, rfl, rfl, by simp [Txn.effect, ht, ha, writeTarget]⟩)
      | ola c => exact .inr (.inr ⟨v, _, rfl, rfl, rfl, by simp [Txn.effect, ht, ha, writeTarget]⟩)
      | out => exact .inr (.inr ⟨v, _, rfl, rfl, rfl, by simp [Txn.effect, ht, ha, writeTarget]⟩)

/-- The host's step with a transaction on the port. -/
theorem hostStep_cons {cap : Nat} {s : State} {t : Txn} {rest : List Txn} (h : s.port = t :: rest) :
    hostStep cap s =
      { Txn.effect cap t { s with port := rest } with
        responses := Txn.response cap t s :: (Txn.effect cap t { s with port := rest }).responses } := by
  simp [hostStep, h]

/-! ## One step (R75) -/

/-- Everything a step can do: use up a turn, the engine's step, or the host's step. -/
theorem step_cases (s : State) :
    (nextAgent Config.sigCap s = none ∧ step s = .next s.afterTurn) ∨
    (nextAgent Config.sigCap s = some .engine ∧ step s = engineStep s.afterTurn) ∨
    (nextAgent Config.sigCap s = some .host ∧ step s = .next (hostStep Config.sigCap s.afterTurn)) := by
  unfold step
  cases h : nextAgent Config.sigCap s with
  | none => simp
  | some a => cases a <;> simp

/-- Everything the engine's step can do: nothing while idle, completion with `ILLEGAL_CMD`, or the run of the decoded
command. -/
theorem engineStep_cases (s : State) :
    (s.inFlight = none ∧ engineStep s = .next s) ∨
    ∃ sn, s.inFlight = some sn ∧
      ((∃ e, decode sn.cmd = .error e ∧ engineStep s = .next (s.completeWithError .illegalCmd sn.cmd)) ∨
       (∃ i, decode sn.cmd = .ok i ∧ engineStep s = exec i s)) := by
  unfold engineStep
  cases h : s.inFlight with
  | none => simp
  | some sn =>
    cases hd : decode sn.cmd with
    | error e => simp [hd]
    | ok i => simp [hd]

end Sys2Proof.Machine
end

