-- ==== Sys2Proof/Laws/PerInstr.lean ====
section
/-! SUPPORT. Families of statements with one lemma per constructor of Instr. -/

namespace Sys2Proof.Laws

/-- The encoding of a command selects the command's own row of the opcode map: its word has the row's fixed bits (R69). -/
def EncodingSelectsRow.Statement (i : Instr) : Prop := encode i &&& i.rowMask = i.rowMatch

/-- The fixed bits of a word with a batch: OP and RSV, whatever the three fields are. -/
theorem concat_and_batch_mask (o : BitVec 4) (c : BitVec 1) (n : BitVec 9) (k : BitVec 8) :
    (o ++ 0#10 ++ c ++ n ++ k) &&& 0xFFFC0000#32 = o ++ 0#10 ++ 0#1 ++ 0#9 ++ 0#8 := by
  refine BitVec.eq_of_getLsbD_eq fun j hj => ?_
  rw [BitVec.getLsbD_and]
  simp only [BitVec.getLsbD_append]
  interval_cases j <;> simp

/-- The fixed bits of a word that has a count alone. -/
theorem concat_and_count_mask (o : BitVec 4) (n : BitVec 9) :
    (o ++ 0#10 ++ 0#1 ++ n ++ 0#8) &&& 0xFFFE00FF#32 = o ++ 0#10 ++ 0#1 ++ 0#9 ++ 0#8 := by
  refine BitVec.eq_of_getLsbD_eq fun j hj => ?_
  rw [BitVec.getLsbD_and]
  simp only [BitVec.getLsbD_append]
  interval_cases j <;> simp

theorem EncodingSelectsRow.nop : EncodingSelectsRow.Statement .nop := by
  unfold EncodingSelectsRow.Statement; decide

theorem EncodingSelectsRow.pad (ch : Channel) : EncodingSelectsRow.Statement (.pad ch) := by
  unfold EncodingSelectsRow.Statement; cases ch <;> decide

theorem EncodingSelectsRow.clr (ch : Channel) : EncodingSelectsRow.Statement (.clr ch) := by
  unfold EncodingSelectsRow.Statement; cases ch <;> decide

theorem EncodingSelectsRow.fwd (ch : Channel) (count slot : Nat) :
    EncodingSelectsRow.Statement (.fwd ch count slot) :=
  concat_and_batch_mask _ _ _ _

theorem EncodingSelectsRow.inv (ch : Channel) (count slot : Nat) :
    EncodingSelectsRow.Statement (.inv ch count slot) :=
  concat_and_batch_mask _ _ _ _

theorem EncodingSelectsRow.pack (count : Nat) : EncodingSelectsRow.Statement (.pack count) :=
  concat_and_count_mask _ _

theorem EncodingSelectsRow.unpack : EncodingSelectsRow.Statement .unpack := by
  unfold EncodingSelectsRow.Statement; decide

theorem EncodingSelectsRow.finish : EncodingSelectsRow.Statement .finish := by
  unfold EncodingSelectsRow.Statement; decide

end Sys2Proof.Laws
end

