-- ==== Sys2Proof/Laws/Step.lean ====
section
/-! SUPPORT. What one step does, by whose turn it is and by what heads the port: the engine's step, a register access, a bus
error, a memory access of the idle block. Later proofs cite these instead of unfolding `step`. -/

namespace Sys2Proof.Machine

/-! ## Regions -/

/-- The unmapped offsets (R54), out of the table of R51. -/
theorem regionOf_eq_none_iff (cap a : Nat) :
    regionOf cap a = none ↔ ∀ r ∈ Region.all, ¬ (r.start ≤ a ∧ a < r.stop ∧ r.wordIndex a < r.words cap) := by
  simp [regionOf, List.find?_eq_none, and_assoc]

/-- Regions do not overlap: the region of an offset is the only one that holds it (R51). -/
theorem regionOf_eq_some_iff (cap a : Nat) (r : Region) :
    regionOf cap a = some r ↔ r.start ≤ a ∧ a < r.stop ∧ r.wordIndex a < r.words cap := by
  constructor
  · exact regionOf_some
  · rintro ⟨h1, h2, h3⟩
    cases hq : regionOf cap a with
    | none =>
      rw [regionOf_eq_none_iff] at hq
      refine absurd ⟨h1, h2, h3⟩ (hq r ?_)
      cases r with
      | registers => simp [Region.all]
      | win => simp [Region.all]
      | ten => simp [Region.all]
      | spec c => cases c <;> simp [Region.all]
      | sig c => cases c <;> simp [Region.all]
      | ola c => cases c <;> simp [Region.all]
      | out => simp [Region.all]
    | some q =>
      obtain ⟨g1, g2, -⟩ := regionOf_some hq
      by_contra hne
      cases r <;> cases q <;> dsimp only [Region.start, Region.stop] at h1 h2 g1 g2 <;> first
        | exact hne rfl
        | omega
        | (rename_i c d; cases c <;> cases d <;> dsimp only [Region.start, Region.stop] at h1 h2 g1 g2 <;>
            first | exact hne rfl | omega)
        | (rename_i c; cases c <;> dsimp only [Region.start, Region.stop] at h1 h2 g1 g2 <;> omega)

/-- The populated words of a region, as offsets. -/
theorem wordIndex_lt_iff {r : Region} {a n : Nat} (h : r.start ≤ a) : r.wordIndex a < n ↔ a < r.start + 4 * n := by
  unfold Region.wordIndex
  omega

/-- The region of an offset, as offsets (R51). -/
theorem regionOf_eq_some_iff_offsets (cap a : Nat) (r : Region) :
    regionOf cap a = some r ↔ r.start ≤ a ∧ a < r.stop ∧ a < r.start + 4 * r.words cap := by
  rw [regionOf_eq_some_iff]
  constructor
  · rintro ⟨h1, h2, h3⟩
    exact ⟨h1, h2, (wordIndex_lt_iff h1).mp h3⟩
  · rintro ⟨h1, h2, h3⟩
    exact ⟨h1, h2, (wordIndex_lt_iff h1).mpr h3⟩

/-- The unmapped offsets, as offsets (R54). -/
theorem regionOf_eq_none_iff_offsets (cap a : Nat) :
    regionOf cap a = none ↔ ∀ r ∈ Region.all, ¬ (r.start ≤ a ∧ a < r.stop ∧ a < r.start + 4 * r.words cap) := by
  rw [regionOf_eq_none_iff]
  refine forall₂_congr fun r _ => not_congr ?_
  constructor
  · rintro ⟨h1, h2, h3⟩
    exact ⟨h1, h2, (wordIndex_lt_iff h1).mp h3⟩
  · rintro ⟨h1, h2, h3⟩
    exact ⟨h1, h2, (wordIndex_lt_iff h1).mpr h3⟩

/-- The register window (R51). -/
theorem regionOf_registers {cap a : Nat} (h : a < 0x1000) : regionOf cap a = some .registers := by
  rw [regionOf_eq_some_iff_offsets]
  simp only [Region.start, Region.stop, Region.words_registers]
  omega

/-! ## Whose turn -/

theorem nextAgent_engine {cap : Nat} {s : State} (hb : s.busy = true) (ht : s.turns.head? ≠ some .host) :
    nextAgent cap s = some .engine := by
  have hp : preferredAgent s = .engine := by
    unfold preferredAgent
    cases hs : s.turns with
    | nil => rfl
    | cons a rest => cases a <;> simp_all
  simp [nextAgent, hp, hb]

/-- The engine moves when its step is enabled and the turn is not the host's. -/
theorem step_engine {s : State} (hb : s.busy = true) (ht : s.turns.head? ≠ some .host) :
    step s = engineStep s.afterTurn := by
  simp [step, nextAgent_engine hb ht]

/-- The host moves when its oldest transaction is not held and the turn is its own or the engine is idle. -/
theorem step_host {s : State} {t : Txn} {rest : List Txn} (hp : s.port = t :: rest)
    (hw : Txn.waits Config.sigCap t s = false) (ht : s.turns.head? = some .host ∨ s.inFlight = none) :
    step s = .next (hostStep Config.sigCap s.afterTurn) := by
  have he : hostEnabled Config.sigCap s = true := by simp [hostEnabled, hp, hw]
  have hn : nextAgent Config.sigCap s = some .host := by
    unfold nextAgent
    rcases ht with ht | ht
    · have hpref : preferredAgent s = .host := by
        unfold preferredAgent
        cases hs : s.turns with
        | nil => simp [hs] at ht
        | cons a r => simpa [hs] using ht
      simp [hpref, he]
    · have hb : s.busy = false := by simp [State.busy, ht]
      cases preferredAgent s <;> simp [hb, he]
  simp [step, hn]

/-- A run of `k + 1` steps whose first step answers a next state goes on from it. -/
theorem run_succ {s t : State} (k : Nat) (h : step s = .next t) :
    Host.Core.run core (k + 1) s = Host.Core.run core k t := by
  have hc : core.step s = .next t := h
  simp only [Host.Core.run]
  rw [hc]

/-! ## Transactions -/

/-- A transaction served from nowhere is answered ERROR and changes nothing (R125). -/
theorem step_busError {s : State} {t : Txn} {rest : List Txn} (hp : s.port = t :: rest)
    (hn : Txn.target Config.sigCap t = none) (ht : s.turns.head? = some .host ∨ s.inFlight = none) :
    step s = .next { s with port := rest, responses := .error :: s.responses, turns := s.turns.tail } := by
  rw [step_host hp (by simp [Txn.waits, hn]) ht]
  have hp' : s.afterTurn.port = t :: rest := hp
  rw [hostStep_cons hp']
  simp [Txn.effect, Txn.response, hn, State.afterTurn]

theorem Txn.target_register {cap : Nat} {t : Txn} (hs : t.size = 4) (ha : t.addr.toNat % 4 = 0)
    (hr : t.addr.toNat < 0x1000) : Txn.target cap t = some .registers := by
  simp [Txn.target, hs, ha, regionOf_registers hr]

/-- A read of the register window answers with the register and changes nothing (R52, R57). -/
theorem step_registerRead {s : State} {t : Txn} {rest : List Txn} (hp : s.port = t :: rest) (hs : t.size = 4)
    (ha : t.addr.toNat % 4 = 0) (hr : t.addr.toNat < 0x1000) (hacc : t.access = .read)
    (ht : s.turns.head? = some .host ∨ s.inFlight = none) :
    step s = .next { s with
      port := rest
      responses := .data (regRead Config.sigCap s (regAt t.addr.toNat)) :: s.responses
      turns := s.turns.tail } := by
  have htgt := Txn.target_register (cap := Config.sigCap) hs ha hr
  rw [step_host hp (by simp [Txn.waits, htgt]) ht]
  have hp' : s.afterTurn.port = t :: rest := hp
  rw [hostStep_cons hp']
  have hread : readTarget Config.sigCap s.afterTurn t.addr.toNat .registers =
      regRead Config.sigCap s (regAt t.addr.toNat) := by
    simp only [readTarget]
    cases regAt t.addr.toNat <;> rfl
  simp only [Txn.effect, Txn.response, htgt, hacc, hread]
  rfl

/-- A write of the register window does the register's write and is answered OK (R52). -/
theorem step_registerWrite {s : State} {t : Txn} {rest : List Txn} {v : Word} (hp : s.port = t :: rest)
    (hs : t.size = 4) (ha : t.addr.toNat % 4 = 0) (hr : t.addr.toNat < 0x1000) (hacc : t.access = .write v)
    (ht : s.turns.head? = some .host ∨ s.inFlight = none) :
    step s = .next
      (let after := regWrite Config.sigCap { s with port := rest, turns := s.turns.tail } v (regAt t.addr.toNat)
       { after with responses := .ok :: after.responses }) := by
  have htgt := Txn.target_register (cap := Config.sigCap) hs ha hr
  rw [step_host hp (by simp [Txn.waits, htgt]) ht]
  have hp' : s.afterTurn.port = t :: rest := hp
  rw [hostStep_cons hp']
  simp only [Txn.effect, Txn.response, htgt, hacc, writeTarget]
  rfl

end Sys2Proof.Machine
end

