-- ==== Sys2Proof/Machine/Assembler.lean ====
section
/-! DEFINITION. The assembler syntax of a command (spec/30_encoding.md R72), over tokens: a name, or a number however it
was written. -/

namespace Sys2Proof.Machine

/-- A token of an assembler line: a mnemonic or alias, or a number (decimal or hexadecimal). -/
inductive Token where
  | name (text : String)
  | number (n : Nat)
deriving DecidableEq, Repr

/-- A channel is written 0 or 1, or L or R (R72). -/
def asmChannel (t : Token) : Option Channel :=
  if t = .number 0 ∨ t = .name "L" then some .left
  else if t = .number 1 ∨ t = .name "R" then some .right
  else none

/-- The command a line names, before its fields are checked (R72). -/
def asmParse : List Token → Option Instr
  | [.name m] =>
    if m = "NOP" then some .nop
    else if m = "UNPACK" then some .unpack
    else if m = "FINISH" then some .finish
    else none
  | [.name m, a] =>
    match m, a, asmChannel a with
    | "PAD", _, some ch => some (.pad ch)
    | "CLR", _, some ch => some (.clr ch)
    | "PACK", .number count, _ => some (.pack count)
    | _, _, _ => none
  | [.name m, a, .number count, .number slot] =>
    match m, asmChannel a with
    | "FWD", some ch => some (.fwd ch count slot)
    | "INV", some ch => some (.inv ch count slot)
    | _, _ => none
  | _ => none

/-- The command word of a line. The assembler refuses a field value outside the field's width, and accepts counts of 257
to 511 (R72). -/
def assemble (line : List Token) : Option Word :=
  match asmParse line with
  | some i => if i.wellFormed then some (encode i) else none
  | none => none

/-- The line of a command (R72). -/
def asmPrint : Instr → List Token
  | .nop => [.name "NOP"]
  | .pad ch => [.name "PAD", .number ch.index]
  | .clr ch => [.name "CLR", .number ch.index]
  | .fwd ch count slot => [.name "FWD", .number ch.index, .number count, .number slot]
  | .inv ch count slot => [.name "INV", .number ch.index, .number count, .number slot]
  | .pack count => [.name "PACK", .number count]
  | .unpack => [.name "UNPACK"]
  | .finish => [.name "FINISH"]

end Sys2Proof.Machine
end

