-- ==== Sys2Proof/Machine/HostScript.lean ====
section
/-! DEFINITION. The host script (spec/30_encoding.md R73, R74): the notation in which a host program drives the block
through its port. The host is outside the block; nothing of the block's step depends on this file. Log 22. -/

namespace Sys2Proof.Machine

/-! ## Statements (R73) -/

/-- The host-side expressions of the spec's programs. R73 leaves their form and arithmetic open; here they are over natural
numbers, and a difference below zero is 0 (DESIGN CHOICE, log 22). -/
inductive HostExpr where
  | num (n : Nat)
  | var (x : String)
  | add (a b : HostExpr)
  | sub (a b : HostExpr)
  | mul (a b : HostExpr)
  | min (a b : HostExpr)
  | bit (a : HostExpr) (k : Nat)
deriving DecidableEq, Repr

/-- The host-side conditions of the spec's programs. -/
inductive HostCond where
  | eq (a b : HostExpr)
  | lt (a b : HostExpr)
deriving DecidableEq, Repr

/-- A statement of the host script (R73). `issue` gives OP and the three fields, which may be expressions. `memRead` is a
read at a bare offset, as program P3 of spec/95_test_vectors.md writes it. -/
inductive HostStmt where
  | wr (r : Reg) (v : HostExpr)
  | rd (r : Reg) (x : String)
  | memw (r : Region) (i v : HostExpr)
  | memr (r : Region) (i : HostExpr) (x : String)
  | memRead (addr size : Nat) (x : String)
  | issue (op : Nat) (ch count slot : HostExpr)
  | label (name : String)
  | assign (x : String) (e : HostExpr)
  | ifGoto (c : HostCond) (name : String)
  | assert (c : HostCond)
  | stop (e : HostExpr)
deriving DecidableEq, Repr

/-- The host's variables, newest binding first. -/
abbrev HostVars := List (String × Nat)

/-- The value of a variable. R73 does not say what one that was never assigned holds; here it is 0 (DESIGN CHOICE,
log 22). -/
def hostVar (vars : HostVars) (x : String) : Nat :=
  match vars with
  | [] => 0
  | (y, n) :: rest => if y = x then n else hostVar rest x

def hostEval (vars : HostVars) : HostExpr → Nat
  | .num n => n
  | .var x => hostVar vars x
  | .add a b => hostEval vars a + hostEval vars b
  | .sub a b => hostEval vars a - hostEval vars b
  | .mul a b => hostEval vars a * hostEval vars b
  | .min a b => Nat.min (hostEval vars a) (hostEval vars b)
  | .bit a k => hostEval vars a / 2 ^ k % 2

def hostHolds (vars : HostVars) : HostCond → Bool
  | .eq a b => hostEval vars a == hostEval vars b
  | .lt a b => hostEval vars a < hostEval vars b

/-- The transaction of an access at a byte offset from BASE. An offset of 2^31 or more does not reach the block (R50), and
R12 and R73 do not say what a script gets from one: the model puts nothing on the port, and the statement passes, binding no
variable (DESIGN CHOICE, log 22). -/
def hostTxn (access : Access) (offset size : Nat) : Option Txn :=
  if offset < 2 ^ 31 then some ⟨access, BitVec.ofNat 31 offset, size⟩ else none

/-- The write of a host value to a word. R73 does not say what `WR` or `MEMW` of a value of 2^32 or more writes: the model
writes the value modulo 2^32 (DESIGN CHOICE, log 22). -/
def hostWrite (value : Nat) : Access := .write (BitVec.ofNat 32 value)

/-- The write of a command word by `ISSUE`. A field value outside its width is outside the domain of `encode` (R71), an
assembler refuses it (R72), and R73 does not say what a script writes for it: the model cuts each field to its width and
issues the word that results (DESIGN CHOICE, log 22). So do `DO` and the pseudo-instructions that expand to `ISSUE`. -/
def hostIssue (op ch count slot : Nat) : Access := .write (encodeFields op ch count slot)

/-- The bus transaction of a statement, if it has one (R73). The values R73 leaves open are settled in `hostTxn`, `hostWrite`
and `hostIssue` (log 22). -/
def HostStmt.txn (vars : HostVars) : HostStmt → Option Txn
  | .wr r v => hostTxn (hostWrite (hostEval vars v)) (regOffset r) 4
  | .rd r _ => hostTxn .read (regOffset r) 4
  | .memw r i v => hostTxn (hostWrite (hostEval vars v)) (r.wordAddr (hostEval vars i)) 4
  | .memr r i _ => hostTxn .read (r.wordAddr (hostEval vars i)) 4
  | .memRead addr size _ => hostTxn .read addr size
  | .issue op ch count slot =>
    hostTxn (hostIssue op (hostEval vars ch) (hostEval vars count) (hostEval vars slot)) (regOffset .cmd) 4
  | .label _ => none
  | .assign _ _ => none
  | .ifGoto _ _ => none
  | .assert _ => none
  | .stop _ => none

/-- The variable a read statement binds. -/
def HostStmt.target : HostStmt → Option String
  | .rd _ x => some x
  | .memr _ _ x => some x
  | .memRead _ _ x => some x
  | .wr _ _ => none
  | .memw _ _ _ => none
  | .issue _ _ _ _ => none
  | .label _ => none
  | .assign _ _ => none
  | .ifGoto _ _ => none
  | .assert _ => none
  | .stop _ => none

/-! ## Pseudo-instructions (R74); `l` is a label not used elsewhere -/

/-- `WAIT`: read `STATUS` until `BUSY` = 0. -/
def hostWait (l : String) : List HostStmt :=
  [.label l, .rd .status "x", .ifGoto (.eq (.bit (.var "x") 0) (.num 1)) l]

/-- `DO cmd`. -/
def hostDo (l : String) (op : Nat) (ch count slot : HostExpr) : List HostStmt :=
  .issue op ch count slot :: hostWait l

/-- `ACK`. -/
def hostAck : List HostStmt := [.wr .status (.num 0x0000000E)]

/-- `CHECK`. -/
def hostCheck (l : String) : List HostStmt :=
  [.rd .status "x", .ifGoto (.eq (.bit (.var "x") 2) (.num 0)) l, .rd .errcode "e", .stop (.var "e"), .label l]

/-- `DO` of one command for channel 0 and then channel 1: `PAD2`, `CLR2`, `FWD2` and `INV2` with OP 1, 2, 3 and 4. -/
def hostDoBoth (l : String) (op : Nat) (count slot : HostExpr) : List HostStmt :=
  hostDo (l ++ "0") op (.num 0) count slot ++ hostDo (l ++ "1") op (.num 1) count slot

/-! ## Running a script against the block -/

/-- The host between statements: where it is, its variables, whether the transaction of its statement is on the port, and
how it stopped. -/
structure HostCpu where
  pc : Nat
  vars : HostVars
  waiting : Bool
  failed : Option Nat
deriving DecidableEq, Repr

def HostCpu.start : HostCpu := ⟨0, [], false, none⟩

/-- The place of a label in a script: the first of that name, and the end if there is none, neither of which R73 settles
(DESIGN CHOICE, log 22). -/
def labelPlace (script : List HostStmt) (name : String) : Nat := script.findIdx (· == .label name)

/-- The binding a response gives a read statement. An ERROR carries no data (R50), and R73 does not say what the variable
then holds: it keeps its binding (DESIGN CHOICE, log 22). -/
def bindResponse (vars : HostVars) (x : Option String) (r : Option Response) : HostVars :=
  match x, r with
  | some x, some (.data v) => (x, v.toNat) :: vars
  | _, _ => vars

/-- One step of the host or, while its transaction is on the port, of the block. R73 does not say what
a false `ASSERT` does: it stops the script with failure 256, which is no error code (DESIGN CHOICE, log 22). -/
def scriptStep (script : List HostStmt) (h : HostCpu) (s : State) : HostCpu × State :=
  match script[h.pc]? with
  | none => (h, s)
  | some st =>
    match st.txn h.vars with
    | some t =>
      if h.waiting then
        if s.port.isEmpty then
          ({ h with pc := h.pc + 1, waiting := false, vars := bindResponse h.vars st.target s.responses.head? }, s)
        else match step s with
          | .next s' => (h, s')
          | .fault _ => (h, s)
          | .refused _ => (h, s)
      else ({ h with waiting := true }, { s with port := s.port ++ [t] })
    | none =>
      match st with
      | .assign x e => ({ h with pc := h.pc + 1, vars := (x, hostEval h.vars e) :: h.vars }, s)
      | .ifGoto c name => ({ h with pc := if hostHolds h.vars c then labelPlace script name else h.pc + 1 }, s)
      | .assert c =>
        if hostHolds h.vars c then ({ h with pc := h.pc + 1 }, s)
        else ({ h with pc := script.length, failed := some 256 }, s)
      | .stop e => ({ h with pc := script.length, failed := some (hostEval h.vars e) }, s)
      | _ => ({ h with pc := h.pc + 1 }, s)

/-- `fuel` steps of a script and the block. -/
def scriptRun (script : List HostStmt) : Nat → HostCpu → State → HostCpu × State
  | 0, h, s => (h, s)
  | fuel + 1, h, s =>
    let next := scriptStep script h s
    scriptRun script fuel next.1 next.2

end Sys2Proof.Machine
end

