-- ==== Sys2Proof/Tests/Slice0.lean ====
section
/-! SUPPORT. Tests. Expected values are the spec's: the vectors of spec/95_test_vectors.md, by their ids, or words and
values worked out from the rule named. The block tested has SIG_CAP = 131072, as those vectors say, where a check depends
on it. -/

namespace Sys2Proof.Tests

open Sys2Proof.Machine

/-! ## Well-formedness: an ill-formed term for each check -/

theorem test_count_too_wide_fwd : (Instr.fwd .left 512 0).wellFormed = false := by decide
theorem test_slot_too_wide_fwd : (Instr.fwd .left 0 256).wellFormed = false := by decide
theorem test_count_too_wide_inv : (Instr.inv .left 512 0).wellFormed = false := by decide
theorem test_slot_too_wide_inv : (Instr.inv .left 0 256).wellFormed = false := by decide
theorem test_count_too_wide_pack : (Instr.pack 512).wellFormed = false := by decide
/-- R72: counts of 257 to 511 are accepted by the assembler. -/
theorem test_count_511_is_well_formed : (Instr.fwd .right 511 255).wellFormed = true := by decide

/-! ## Decoding: words written out bit by bit from R66 and R69, and section 2.1 -/

theorem test_decode_nop : decode 0b0000_0000000000_0_000000000_00000000#32 = .ok .nop := rfl
theorem test_decode_pad : decode 0b0001_0000000000_1_000000000_00000000#32 = .ok (.pad .right) := rfl
theorem test_decode_clr : decode 0b0010_0000000000_0_000000000_00000000#32 = .ok (.clr .left) := rfl
theorem test_decode_fwd : decode 0b0011_0000000000_1_000000001_11111111#32 = .ok (.fwd .right 1 255) := rfl
theorem test_decode_inv : decode 0b0100_0000000000_0_100000000_00000001#32 = .ok (.inv .left 256 1) := rfl
theorem test_decode_pack : decode 0b0101_0000000000_0_001010111_00000000#32 = .ok (.pack 87) := rfl
theorem test_decode_unpack : decode 0b0110_0000000000_0_000000000_00000000#32 = .ok .unpack := rfl
theorem test_decode_finish : decode 0b0111_0000000000_0_000000000_00000000#32 = .ok .finish := rfl
theorem test_decode_reserved_op : decode 0x80000000#32 = .error .reservedOpcode := rfl
theorem test_decode_rsv_bit_18 : decode 0x30040000#32 = .error .reservedBits := rfl
theorem test_decode_rsv_bit_27 : decode 0x38000000#32 = .error .reservedBits := rfl
theorem test_decode_nop_with_slot : decode 0x00000001#32 = .error .nonzeroField := rfl
theorem test_decode_pad_with_count : decode 0x10000100#32 = .error .nonzeroField := rfl
theorem test_decode_pack_with_channel : decode 0x50020000#32 = .error .nonzeroField := rfl
theorem test_decode_finish_with_channel : decode 0x70020000#32 = .error .nonzeroField := rfl
theorem test_table_word : decodeTableWord 32 0x400201FF = some (.inv .right 1 255) := rfl
/-- R71's examples. -/
theorem test_encode_examples :
    [Instr.fwd .left 256 0, .fwd .right 87 0, .pack 87, .inv .right 1 255].map encode =
      [0x30010000#32, 0x30025700#32, 0x50005700#32, 0x400201FF#32] := by decide
/-- R72: aliases, and the refusal of a field outside its width. -/
theorem test_assemble_alias : assemble [.name "FWD", .name "R", .number 300, .number 0] = some 0x30032C00#32 := by
  decide +kernel
theorem test_assemble_refuses : assemble [.name "PACK", .number 512] = none := by decide +kernel

/-! ## Validation: section 2.1 and 2.10, with the words' own registers -/

/-- The error of a command word under the given registers. -/
def errorOf (cmd len : Word) (hop : BitVec 13) (framebase norm : Word) : Option CmdError :=
  validateWord 131072 ⟨cmd, len, hop, norm, framebase⟩

theorem test_V_E1_batch_first : errorOf 0x30012C00 200000 1024 0 0x3FC00000 = some .batchTooLarge := by decide
theorem test_V_E3_capacity_before_hop : errorOf 0x40000100 200000 0 0 0x3FC00000 = some .capacity := by decide
theorem test_V_F9_hop_before_size : errorOf 0x30000100 4096 0 5 0x3FC00000 = some .badHop := by decide
theorem test_V_E10_pad_ignores_hop : errorOf 0x10000000 1000 0 0 0x3FC00000 = some .lenTooShort := by decide
theorem test_V_F6_size : errorOf 0x30000600 4096 1024 0 0x3FC00000 = some .sizeMismatch := by decide
theorem test_V_F5_last_frame_fits : errorOf 0x30000500 4096 1024 0 0x3FC00000 = none := by decide
theorem test_slot_overflow : errorOf 0x300202FF 0 1024 0 0x3FC00000 = some .batchTooLarge := by decide
theorem test_V_P5_capacity_edge : errorOf 0x10000000 126976 1024 0 0x3FC00000 = none := by decide
theorem test_V_P4_capacity : errorOf 0x10000000 126977 1024 0 0x3FC00000 = some .capacity := by decide
theorem test_V_N10_to_N13_norms :
    [0x80000000#32, 0xBFC00000#32, 0x7F800000#32, 0x7FC00000#32, 0x00000000#32].map (errorOf 0x70000000 1 1024 0) =
      List.replicate 5 (some .badNorm) := by decide
theorem test_V_N6_subnormal_norm_passes : errorOf 0x70000000 1 1024 0 0x00400000 = none := by decide
theorem test_V_E8_illegal : errorOf 0x3FFC0000 200000 0 0 0 = some .illegalCmd := by decide
theorem test_V_E11_clr_ignores_hop_and_norm : errorOf 0x20000000 4096 0 0 0 = none := by decide

/-! ## Arithmetic: section 2.7, V-I7, and IEEE 754 corner cases worked by hand -/

theorem test_V_N1_div : F32.fdiv 0x3FC00000 0x3FC00000 = 0x3F800000#32 := by decide +kernel
theorem test_V_N2_div : F32.fdiv 0x3F800000 0x3FC00000 = 0x3F2AAAAB#32 := by decide +kernel
theorem test_V_N3_div : F32.fdiv 0x3F800000 0x40400000 = 0x3EAAAAAB#32 := by decide +kernel
theorem test_V_N6_subnormal_divisor : F32.fdiv 0x3F800000 0x00400000 = 0x7F000000#32 := by decide +kernel
theorem test_V_N7_overflow : F32.fdiv 0x3F800000 0x00000001 = 0x7F800000#32 := by decide +kernel
theorem test_V_N8_nan : F32.fdiv 0x7F800001 0x3FC00000 = 0x7FC00000#32 := by decide +kernel
theorem test_V_I7_add_zeros : F32.fadd 0x80000000 0x00000000 = 0x00000000#32 := by decide +kernel
/-- 1 + 2^-24 is a tie and goes to the even 1; 1 + 3 * 2^-24 is a tie and goes up. -/
theorem test_add_ties_to_even :
    (F32.fadd 0x3F800000 0x33800000, F32.fadd 0x3F800001 0x33800000) = (0x3F800000#32, 0x3F800002#32) := by
  decide +kernel
/-- Half the least subnormal rounds to zero with its sign; gradual underflow keeps 2^-149. -/
theorem test_mul_underflow :
    (F32.fmul 0x80000001 0x3F000000, F32.fmul 0x00000002 0x3F000000) = (0x80000000#32, 0x00000001#32) := by
  decide +kernel
theorem test_mul_inf_zero : F32.fmul 0x7F800000 0x80000000 = 0x7FC00000#32 := by decide +kernel
theorem test_fneg_nan_keeps_payload : F32.fneg 0x7FC00002 = 0xFFC00002#32 := by decide

/-! ## The window: R88, V-W5 -/

theorem test_V_W1 : [0, 1024, 2048, 3072].map win = [0x00000000#32, 0x3F000000#32, 0x3F800000#32, 0x3F000000#32] := by
  decide +kernel
theorem test_V_W4 : [256, 512, 1536, 2047].map win = [0x3D1BE50C#32, 0x3E15F61A#32, 0x3F5A827A#32, 0x3F7FFFF6#32] := by
  decide +kernel

/-! ## Registers and the port: section 2.2 -/

theorem test_V_B6_hop_bits :
    regRead 131072 (regWrite 131072 State.reset 0xFFFFFFFF .hop) .hop = 0x00001FFF#32 := by decide
theorem test_V_B13_nframes_wraps :
    regRead 131072 { State.reset with len := 0xFFFFFFFF, hop := 1 } .nframes = 0x00000000#32 := by decide
theorem test_V_B9_nframes : regRead 131072 { State.reset with len := 88200 } .nframes = 87#32 := by decide
/-- V-B14 and V-B15. -/
theorem test_status_write :
    let s := { State.reset with done := true, err := true, ovr := true, errcode := 4, errinfo := 0x10000000 }
    ((s.writeStatus 2).statusWord, (s.writeStatus 2).errcode, (s.writeStatus 4).statusWord, (s.writeStatus 4).errinfo) =
      (0x0000000C#32, 4#8, 0x0000000A#32, 0#32) := by decide
/-- V-B18: the soft reset discards bit 1. -/
theorem test_V_B18_soft_reset :
    regWrite 131072 { State.reset with irqen := true, len := 5, cmdcount := 7 } 3 .ctrl = State.reset := by decide

/-- The response to one transaction at reset. -/
def answerAtReset (access : Access) (a : BitVec 31) (size : Nat) : Response :=
  Txn.response 131072 ⟨access, a, size⟩ State.reset

theorem test_V_B20_misaligned : answerAtReset .read 0x10000002 4 = .error := by decide
theorem test_V_B21_size : answerAtReset .read 0x10000000 2 = .error := by decide
theorem test_V_B22_win_write : answerAtReset (.write 0) 0x00010000 4 = .error := by decide
theorem test_V_B23_win_read : answerAtReset .read 0x00012000 4 = .data 0x3F800000 := by decide +kernel
theorem test_V_B24_unmapped : answerAtReset .read 0x00001000 4 = .error := by decide
theorem test_V_B25_past_populated : answerAtReset .read 0x10080000 4 = .error := by decide
theorem test_V_B26_last_out_word : answerAtReset (.write 0) 0x500F7FFC 4 = .ok := by decide
theorem test_V_B8_reserved : answerAtReset .read 0x00000FFC 4 = .data 0 := by decide
/-- V-B27: the low byte of the word lies at the low address. -/
theorem test_V_B27_little_endian :
    let s := Txn.effect 131072 ⟨.write 0x12345678, 0x10000004, 4⟩ State.reset
    (s.mem.byte 0x10000004, s.mem.get (.sig .left) 1) = (0x78#8, 0x12345678#32) := by decide +kernel

/-! ## The commands' effects -/

/-- A memory that holds the given words. -/
def memOf (words : List (Region × Nat × Word)) : Memory :=
  words.foldl (fun m x => m.set x.1 x.2.1 x.2.2) []

/-- A snapshot with the given length. -/
def snapOf (len : Word) : Snapshot := ⟨0, len, 1024, 0x3FC00000, 0⟩

/-- V-P6: -0 and a NaN move unchanged into the left pad. -/
theorem test_V_P6_pad_left :
    let m := padMemory .left (snapOf 4096) (memOf [(.sig .left, 2048, 0x80000000), (.sig .left, 2049, 0x7FC01234)])
    (m.get (.sig .left) 2047, m.get (.sig .left) 2046) = (0x80000000#32, 0x7FC01234#32) := by
  intro m
  have h : ∀ j < 2048, m.get (.sig .left) j = (memOf [(.sig .left, 2048, 0x80000000), (.sig .left, 2049, 0x7FC01234)]).get (.sig .left) (4095 - j) := by
    intro j hj
    show (padRight _ _ (padLeft _ _)).get _ _ = _
    unfold padRight padLeft
    rw [Memory.get_setRange_outside _ _ _ _ _ _ _ (by simp [Region.wordAddr, snapOf, Snapshot.length]; omega),
      Memory.get_setRange_inside _ _ _ _ _ _ (by omega) (by omega)]
    simp
  rw [h _ (by omega), h _ (by omega)]
  decide +kernel
/-- V-P2: the last sample opens the right pad. -/
theorem test_V_P2_pad_right :
    let m := memOf [(.sig .right, 4095, 0x44FFE000), (.sig .right, 2048, 0x3F800000)]
    ((padRight .right 2048 m).get (.sig .right) 4096, (padRight .right 2048 m).get (.sig .right) 6143) =
      (0x44FFE000#32, 0x3F800000#32) := by
  intro m
  unfold padRight
  rw [Memory.get_setRange_inside _ _ _ _ _ _ (by decide) (by decide),
    Memory.get_setRange_inside _ _ _ _ _ _ (by decide) (by decide)]
  decide +kernel
/-- V-I5: `CLR` stops at word L + 4096. -/
theorem test_V_I5_clr (m : Memory) :
    (clrMemory .right (snapOf 100) m).get (.ola .right) 4195 = 0#32 ∧
      (clrMemory .right (snapOf 100) m).get (.ola .right) 4196 = m.get (.ola .right) 4196 :=
  ⟨Memory.get_setRange_inside _ _ _ _ _ _ (by decide) (by decide),
    Memory.get_setRange_outside _ _ _ _ _ _ _ (by decide)⟩
/-- R99's addressing and windowing, with a transform that returns its argument: frame 2 (offset 2048) into slot 3, bin 2048
is 1.0 * SIG[4096]. -/
theorem test_fwd_windows_frame :
    let sn : Snapshot := { snapOf 4096 with framebase := 2 }
    let m := fwdMemory (fun z => z) .left 1 3 sn (memOf [(.sig .left, 4096, 0x40400000)])
    m.specBin .left 3 2048 = ⟨0x40400000#32, 0x00000000#32⟩ := by
  have one : List.range 1 = [0] := rfl
  simp only [fwdMemory, one, List.foldl, forwardFrame, Memory.specBin]
  rw [Memory.get_setRange_inside _ _ _ _ _ _ (by decide) (by decide),
    Memory.get_setRange_inside _ _ _ _ _ _ (by decide) (by decide)]
  decide +kernel
/-- R100, R105 with a transform that returns its argument: real part 8192.0 of bin 2048 is divided by 4096.0, windowed by
1.0, and added to 0.5. -/
theorem test_inv_adds :
    let m := invMemory (fun z => z) .right 1 0 (snapOf 4096)
      (memOf [(.spec .right, 4096, 0x46000000), (.spec .right, 4097, 0x7FC00000), (.ola .right, 2048, 0x3F000000)])
    m.get (.ola .right) 2048 = 0x40200000#32 := by
  have one : List.range 1 = [0] := rfl
  simp only [invMemory, one, List.foldl, addFrame]
  rw [Memory.get_setRange_inside _ _ _ _ _ _ (by decide) (by decide)]
  decide +kernel
/-- V-N5: -3.0 and 1.5 over 1.5, left to even words and right to odd words. -/
theorem test_V_N5_finish :
    let m := finishMemory (snapOf 1) (memOf [(.ola .left, 2048, 0xC0400000), (.ola .right, 2048, 0x3FC00000)])
    (m.get .out 0, m.get .out 1) = (0xC0000000#32, 0x3F800000#32) := by decide +kernel
/-- V-K1: the four tensor words of bin 3. -/
theorem test_V_K1_pack :
    let m := memOf [(.spec .left, 6, 0x3F800000), (.spec .left, 7, 0xC0000000), (.spec .right, 6, 0x40400000),
      (.spec .right, 7, 0x40800000)]
    [768, 525056, 1049344, 1573632].map (packWord 1 m) =
      [0x3F800000#32, 0xC0000000#32, 0x40400000#32, 0x40800000#32] := by decide +kernel
/-- V-K3: bin 2 is dropped; and a frame past the count is zero. -/
theorem test_V_K3_pack :
    let m := memOf [(.spec .left, 4, 0x40A00000), (.spec .left, 8192 + 6, 0x40A00000)]
    (packWord 1 m 512, packWord 1 m 769, packWord 2 m 769) = (0#32, 0#32, 0x40A00000#32) := by decide +kernel
/-- V-U2: the DC imaginary part is forced to 0. -/
theorem test_V_U2_unpack :
    unpackBin (memOf [(.ten, 0, 0x3F800000), (.ten, 524288, 0x41100000)]) .left 0 0 = ⟨0x3F800000#32, 0#32⟩ := by
  decide +kernel
/-- V-U3: NaNs are copied with their payloads and mirrored with the sign inverted; the Nyquist bin is zero. -/
theorem test_V_U3_unpack :
    let m := memOf [(.ten, 2 * 524288 + 2047 * 256 + 255, 0x7FC00001), (.ten, 3 * 524288 + 2047 * 256 + 255, 0x7FC00002)]
    [2047, 2048, 2049].map (unpackBin m .right 255) =
      [⟨0x7FC00001#32, 0x7FC00002#32⟩, ⟨0#32, 0#32⟩, ⟨0x7FC00001#32, 0xFFC00002#32⟩] := by decide +kernel

/-! ## The step -/

/-- A property of the next state of a step, false where there is none. -/
def afterStep (s : State) (p : State → Bool) : Bool :=
  match step s with
  | .next t => p t
  | .fault _ => false
  | .refused _ => false

/-- R85's example: `NOP` from reset leaves STATUS = 2 and CMDCOUNT = 1. -/
theorem test_nop_from_reset :
    afterStep (State.reset.withFetchWord 32 0) (fun t => t.statusWord == 2 && t.cmdcount == 1 && t.mem == []) = true := by
  decide
/-- `PAD 0` from reset fails with LEN_TOO_SHORT and its word. -/
theorem test_pad_from_reset :
    afterStep (State.reset.withFetchWord 32 0x10000000)
      (fun t => t.statusWord == 6 && t.errcode == 4 && t.errinfo == 0x10000000 && t.mem == []) = true := by
  decide +kernel
/-- An illegal word from reset fails with ILLEGAL_CMD. -/
theorem test_illegal_from_reset :
    afterStep (State.reset.withFetchWord 32 0x80000000) (fun t => t.statusWord == 6 && t.errcode == 1) = true := by
  decide
/-- R77: a second `CMD` write before the engine's turn is dropped. -/
theorem test_overrun :
    let s := { State.reset.accept 0 with port := [⟨.write 0x60000000, 0x20, 4⟩], turns := [.host] }
    afterStep s (fun t => t.statusWord == 9 && t.cmd == 0 && t.responses == [.ok]) = true := by decide +kernel
/-- V-E9: the first error stands while a later one completes. -/
theorem test_V_E9_first_error_stands :
    let s := { State.reset with err := true, errcode := 4, errinfo := 0x10000000 }
    afterStep (s.withFetchWord 32 0x30012C00)
      (fun t => t.errcode == 4 && t.errinfo == 0x10000000 && t.cmdcount == 1) = true := by decide +kernel
/-- R140: an aborted `CLR 0` at reset length leaves OLA[0] fresh draws, and does not count. -/
theorem test_abort_draws :
    ((State.reset.accept 0x20000000).softReset 131072).mem.byte 0x30000001 = Config.abortByte 0 0x30000001 ∧
      ((State.reset.accept 0x20000000).softReset 131072).cmdcount = 0 := ⟨rfl, rfl⟩
/-- A host program by the notation of R73, R74: two `NOP`s and a read of CMDCOUNT. -/
theorem test_host_script :
    let program := hostDo "a" 0 (.num 0) (.num 0) (.num 0) ++ hostDo "b" 0 (.num 0) (.num 0) (.num 0) ++
      [.rd .cmdcount "n"] ++ hostAck
    let last := scriptRun program 60 HostCpu.start State.reset
    hostVar last.1.vars "n" = 2 ∧ last.2.statusWord = 0 := by decide +kernel

/-- R50: an access at offset 2^31 does not reach the block, where its neighbour below does (log 22). -/
theorem test_host_script_outside_window :
    (HostStmt.memw .registers (.num 536870912) (.num 1)).txn [] = none ∧
    (HostStmt.memw .registers (.num 536870911) (.num 1)).txn [] = some ⟨.write 1, 0x7FFFFFFC, 4⟩ := by decide +kernel

/-- R71, R73: the example word of R71 by `ISSUE`, and the values R73 leaves open, cut to their width (log 22). -/
theorem test_host_script_value_width :
    hostIssue 4 1 1 255 = .write 0x400201FF ∧ hostIssue 4 1 513 511 = .write 0x400201FF ∧
    hostWrite (2 ^ 32 + 5) = .write 5 := by decide +kernel

/-! ## The host's duties -/

/-- Commands for a channel of 4096 samples at the reset hop and norm, each with its snapshot. -/
def runOf (commands : List Instr) : Run := commands.map fun i => .command i ⟨encode i, 4096, 1024, 0x3FC00000, 0⟩

/-- A command of such a run is one of the list, with that snapshot. -/
theorem runOf_command {commands : List Instr} {i : Instr} {sn : Snapshot} (h : .command i sn ∈ runOf commands) :
    i ∈ commands ∧ sn = ⟨encode i, 4096, 1024, 0x3FC00000, 0⟩ := by
  obtain ⟨j, hj, he⟩ := List.mem_map.mp h
  cases he
  exact ⟨hj, rfl⟩

/-- The commands of program P1. -/
def programP1 : Run :=
  runOf [.pad .left, .pad .right, .clr .left, .clr .right, .fwd .left 5 0, .fwd .right 5 0, .inv .left 5 0,
    .inv .right 5 0, .finish]

/-- P1 does what the host must. -/
theorem test_P1_fulfils_the_duties : HostDuties 131072 4096 1024 programP1 where
  oneLength := by
    rintro i sn h -
    rw [(runOf_command h).2]
    rfl
  oneHop := by
    rintro i sn h -
    rw [(runOf_command h).2]
    rfl
  padFirst := by intro c; cases c <;> decide
  clearFirst := by intro c; cases c <;> decide
  finishLast := by intro c; cases c <;> decide
  normMatches := by
    have cola : normIsCola 1024 0x3FC00000 = true := by decide +kernel
    intro sn h
    rw [(runOf_command h).2]
    exact cola
  slots := by simp [slotsRespected, programP1, runOf, SlotTenants.after, SlotTenants.allows, SlotTenants.none]
  everyFrameOnce := by intro c; cases c <;> decide
  noError := by
    have each : ∀ i ∈ [Instr.pad .left, .pad .right, .clr .left, .clr .right, .fwd .left 5 0, .fwd .right 5 0,
        .inv .left 5 0, .inv .right 5 0, .finish],
        validate 131072 i ⟨encode i, 4096, 1024, 0x3FC00000, 0⟩ = none := by decide
    intro i sn h
    rw [(runOf_command h).2]
    exact each i (runOf_command h).1

/-- R107: a `FINISH` ahead of the `INV`s is no run of a dutiful host. -/
theorem test_R107_finish_before_inv :
    ¬ NoneAfter isFinish (isInvOf .left) (runOf [.clr .left, .fwd .left 5 0, .finish, .inv .left 5 0]) := by decide

/-- R150, R120: a batch in order, with the network's output written. -/
theorem test_R150_batch_in_order :
    slotsRespected SlotTenants.none
      (runOf [.fwd .left 1 0, .fwd .right 1 0, .pack 1] ++ [.tensorWritten] ++
        runOf [.unpack, .inv .left 1 0, .inv .right 1 0, .fwd .left 2 0]) := by
  simp [slotsRespected, runOf, SlotTenants.after, SlotTenants.allows, SlotTenants.none, framesAdded]

/-- R150: `UNPACK` with no `PACK` of the batch, and a `FWD` between `PACK` and `UNPACK`. -/
theorem test_R150_unpack_without_pack :
    ¬ slotsRespected SlotTenants.none (runOf [.fwd .left 1 0, .pack 1, .unpack, .inv .left 1 0, .fwd .left 1 0, .unpack]) ∧
    ¬ slotsRespected SlotTenants.none (runOf [.fwd .left 1 0, .pack 1, .fwd .left 1 0, .unpack]) := by
  simp [slotsRespected, runOf, SlotTenants.after, SlotTenants.allows, SlotTenants.none]

/-- R150: slots the batch did not pack hold none of its frames after `UNPACK`. -/
theorem test_R150_inv_past_the_batch :
    ¬ slotsRespected SlotTenants.none (runOf [.fwd .left 2 0, .pack 1, .unpack, .inv .left 2 0]) := by
  simp [slotsRespected, runOf, SlotTenants.after, SlotTenants.allows, SlotTenants.none]
  exact ⟨1, Nat.le_refl 1, by simp⟩

/-- R149: 1.5 is the constant of hop 1024 and not of hop 512. -/
theorem test_norm_of_hop : (normIsCola 1024 0x3FC00000, normIsCola 512 0x3FC00000) = (true, false) := by decide +kernel

end Sys2Proof.Tests
end

