-- ==== Sys2Proof/Tests/Witness.lean ====
section
/-! SUPPORT. For every obligation with hypotheses, states and operands that meet them all together, each clause at the
edges of its range. The name of a witness is that of its obligation. Nothing here proves an obligation. -/

namespace Sys2Proof.Tests

open Sys2Proof.Machine Sys2Proof.Statements

/-! ## States -/

/-- The idle block with the given transactions on the port, oldest first. -/
def idleWith (port : List Txn) : State := { State.reset with port := port }

/-- The block with a command in flight and the given transactions on the port, the host to move. -/
def busyWith (sn : Snapshot) (port : List Txn) : State :=
  { State.reset with cmd := sn.cmd, inFlight := some sn, port := port, turns := [.host, .engine] }

/-- The block with a command in flight, the engine to move. -/
def running (sn : Snapshot) : State := { State.reset with cmd := sn.cmd, inFlight := some sn }

/-- A snapshot of the word `cmd` with the given length and else the reset values. -/
def snap (cmd len : Word) : Snapshot := ⟨cmd, len, 1024, 0x3FC00000, 0⟩

@[simp] theorem idleWith_port (port : List Txn) : (idleWith port).port = port := rfl
@[simp] theorem idleWith_inFlight (port : List Txn) : (idleWith port).inFlight = none := rfl

theorem hostTurn_idle (t : Txn) (rest : List Txn) : HostTurn (idleWith (t :: rest)) t rest := ⟨rfl, .inr rfl⟩
theorem hostTurn_busy (sn : Snapshot) (t : Txn) (rest : List Txn) : HostTurn (busyWith sn (t :: rest)) t rest :=
  ⟨rfl, .inl rfl⟩
theorem engineTurn_running (sn : Snapshot) : EngineTurn (running sn) sn := ⟨rfl, by simp [running, State.reset]⟩

/-! ## Validation under the open SIG_CAP -/

/-- Where the capacity row answers alike, validation does. -/
theorem validate_congr {cap cap' : Nat} {i : Instr} {sn : Snapshot}
    (h : capacityExceeded cap sn = capacityExceeded cap' sn) : validate cap i sn = validate cap' i sn := by
  simp only [validate, h]

/-- A channel of at most 2048 words fits every block. -/
theorem small_fits {sn : Snapshot} (h : sn.length ≤ 2048) :
    capacityExceeded Config.sigCap sn = capacityExceeded 6144 sn := by
  have := sigCap_ge
  simp only [capacityExceeded, decide_eq_decide]
  omega

/-- A channel of 2^26 words or more fits no block. -/
theorem large_fails {sn : Snapshot} (h : 2 ^ 26 ≤ sn.length) :
    capacityExceeded Config.sigCap sn = capacityExceeded 6144 sn := by
  have := sigCap_le
  simp only [capacityExceeded, decide_eq_decide]
  omega

theorem validate_small {i : Instr} {sn : Snapshot} {o : Option CmdError} (h : sn.length ≤ 2048)
    (hv : validate 6144 i sn = o) : validate Config.sigCap i sn = o := by
  rw [validate_congr (small_fits h), hv]

theorem validateWord_small {sn : Snapshot} {o : Option CmdError} (h : sn.length ≤ 2048)
    (hv : validateWord 6144 sn = o) : validateWord Config.sigCap sn = o := by
  rw [← hv]
  unfold validateWord
  split
  · rfl
  · exact validate_congr (small_fits h)

theorem validateWord_large {sn : Snapshot} {o : Option CmdError} (h : 2 ^ 26 ≤ sn.length)
    (hv : validateWord 6144 sn = o) : validateWord Config.sigCap sn = o := by
  rw [← hv]
  unfold validateWord
  split
  · rfl
  · exact validate_congr (large_fails h)

/-! ## Encoding -/

theorem witness_DecodeOfEncodeIsIdentity :
    (Instr.fwd .right 511 255).wellFormed = true ∧ (Instr.pack 0).wellFormed = true := by decide

theorem witness_EncodeOfDecodeIsIdentity : decode 0x4003FFFF = .ok (.inv .right 511 255) := rfl

theorem witness_DecoderAcceptsExactlyTheOpcodeMap :
    decode 0x30000000 = .ok (.fwd .left 0 0) ∧
    0x3003FFFF#32 &&& (Instr.fwd .right 511 255).rowMask = (Instr.fwd .right 511 255).rowMatch ∧
    0x3003FFFF#32 &&& (Instr.fwd .left 0 0).rowMask = (Instr.fwd .left 0 0).rowMatch := by
  refine ⟨rfl, ?_, ?_⟩ <;> decide

/-! ## The step -/

theorem witness_StepRunsTheDecodedCommand :
    EngineTurn (running (snap 0x7 0)) (snap 0x7 0) ∧
    EngineTurn (State.reset.withFetchWord 32 0x20020000) ((State.reset.latch 0x20020000)) ∧
    decode (State.reset.latch 0x20020000).cmd = .ok (.clr .right) := by
  refine ⟨engineTurn_running _, ⟨rfl, ?_⟩, rfl⟩
  simp [State.withFetchWord, State.accept]

theorem witness_PlacedWordIsRunNext : decode 0x50005700 = .ok (.pack 87) := rfl

/-- The `mask` and `match` columns of spec/opcode_table.json. -/
def opcodeRows : List (Word × Word) :=
  [(0xFFFFFFFF, 0x00000000), (0xFFFDFFFF, 0x10000000), (0xFFFDFFFF, 0x20000000), (0xFFFC0000, 0x30000000),
    (0xFFFC0000, 0x40000000), (0xFFFE00FF, 0x50000000), (0xFFFFFFFF, 0x60000000), (0xFFFFFFFF, 0x70000000)]

theorem row_listed (i : Instr) : (i.rowMask, i.rowMatch) ∈ opcodeRows := by
  cases i <;> simp [opcodeRows, Instr.rowMask, Instr.rowMatch]

/-- A reserved opcode, a reserved bit, and a field its command requires zero. -/
theorem witness_IllegalWordCompletesWithItsError :
    ∀ w ∈ [0x80000000#32, 0xFFFFFFFF#32, 0x30040000#32, 0x00000001#32, 0x70020000#32],
      EngineTurn (running (snap w 0)) (snap w 0) ∧ ∀ i : Instr, (snap w 0).cmd &&& i.rowMask ≠ i.rowMatch := by
  have none : ∀ w ∈ [0x80000000#32, 0xFFFFFFFF#32, 0x30040000#32, 0x00000001#32, 0x70020000#32],
      ∀ r ∈ opcodeRows, w &&& r.1 ≠ r.2 := by
    simp only [opcodeRows, List.forall_mem_cons, List.not_mem_nil, IsEmpty.forall_iff, implies_true, and_true]
    decide
  exact fun w hw => ⟨engineTurn_running _, fun i => none w hw _ (row_listed i)⟩

theorem witness_CommandWriteWhileIdleIsAccepted :
    (idleWith [wordWrite 0x020 0xFFFFFFFF]).port = [wordWrite 0x020 0xFFFFFFFF] ∧
      (idleWith [wordWrite 0x020 0xFFFFFFFF]).inFlight = none := ⟨rfl, rfl⟩

theorem witness_CommandWriteWhileBusyIsDropped :
    let s := busyWith (snap 0x60000000 0) [wordWrite 0x020 0]
    s.port = [wordWrite 0x020 0] ∧ s.inFlight = some (snap 0x60000000 0) ∧ s.turns.head? = some .host := ⟨rfl, rfl, rfl⟩

/-- One command of every error code of R122, at the edge of its condition where it has one. -/
theorem witness_FailedCommandOnlyRecordsItsError :
    validateWord Config.sigCap (snap 0x80000000 0) = some .illegalCmd ∧
    validateWord Config.sigCap (snap 0x50010100 0) = some .batchTooLarge ∧
    validateWord Config.sigCap (snap 0x20000000 0x04000000) = some .capacity ∧
    validateWord Config.sigCap { snap 0x40000000 2048 with hop := 0 } = some .badHop ∧
    validateWord Config.sigCap (snap 0x10000000 2047) = some .lenTooShort ∧
    validateWord Config.sigCap (snap 0x30000300 2047) = some .sizeMismatch ∧
    validateWord Config.sigCap { snap 0x70000000 2048 with norm := 0x80000000 } = some .badNorm ∧
    (running (snap 0x80000000 0)).inFlight = some (snap 0x80000000 0) :=
  ⟨rfl, validateWord_small (by decide) (by decide), validateWord_large (by decide) (by decide),
    validateWord_small (by decide) (by decide), validateWord_small (by decide) (by decide),
    validateWord_small (by decide) (by decide), validateWord_small (by decide) (by decide), rfl⟩

/-- Every command passes validation somewhere, with operands at the edges of their ranges. -/
theorem witness_ValidCommandCompletesInsideItsWriteSet :
    ∀ i ∈ [Instr.nop, .pad .left, .pad .right, .clr .left, .clr .right, .fwd .left 3 253, .fwd .right 0 255,
        .inv .left 3 253, .inv .right 0 255, .pack 256, .pack 0, .unpack, .finish],
      (running (snap (encode i) 2048)).inFlight = some (snap (encode i) 2048) ∧
      validate Config.sigCap i (snap (encode i) 2048) = none := by
  intro i hi
  refine ⟨rfl, validate_small (show (2048#32).toNat ≤ 2048 by decide) ?_⟩
  revert i
  decide

theorem witness_WriteSetsLieInsideTheirMemories :
    validate Config.sigCap (.inv .left 3 0) (snap 0x40000300 2048) = none ∧
    ⟨.ola .left, 0, 6144⟩ ∈ writeSet (.inv .left 3 0) (snap 0x40000300 2048) :=
  ⟨validate_small (by decide) (by decide), by decide⟩

/-! ## The commands -/

theorem witness_NopOnlyCompletes : (running (snap 0 0xFFFFFFFF)).inFlight = some (snap 0 0xFFFFFFFF) := rfl

/-- A channel of `len` <= 2048 words fits the block. -/
theorem fits {cmd len : Word} (h : len.toNat ≤ 2048) : (snap cmd len).len.toNat + 4096 ≤ Config.sigCap := by
  have := sigCap_ge
  simp only [snap]
  omega

/-- The shortest channel `PAD` takes. -/
theorem witness_PadWritesBothReflections :
    (running (snap 0x10000000 2048)).inFlight = some (snap 0x10000000 2048) ∧
    (snap 0x10000000 2048).len.toNat + 4096 ≤ Config.sigCap ∧ 2048 ≤ (snap 0x10000000 2048).len.toNat :=
  ⟨rfl, fits (by decide), by decide⟩

/-- The longest channel of the block fits too. -/
theorem witness_PadWritesBothReflections_longest :
    ∃ len : Word, len.toNat + 4096 = Config.sigCap ∧ 2048 ≤ len.toNat := by
  have h1 := sigCap_ge
  have h2 := sigCap_le
  refine ⟨BitVec.ofNat 32 (Config.sigCap - 4096), ?_, ?_⟩ <;> rw [BitVec.toNat_ofNat, Nat.mod_eq_of_lt] <;> omega

theorem witness_PadKeepsTheChannel :
    (running (snap 0x10000000 2048)).inFlight = some (snap 0x10000000 2048) ∧
    (∃ t, exec (.pad .left) (running (snap 0x10000000 2048)) = .next t) ∧ 2047 < (snap 0x10000000 2048).len.toNat :=
  ⟨rfl, ⟨_, rfl⟩, by decide⟩

theorem witness_PadTwiceIsPadOnce :
    let s := { running (snap 0x10000000 2048) with len := 2048, mem := [(0x10002000, 7#8), (0x10002001, 9#8)] }
    s.mem.wf ∧ s.inFlight = some (snap 0x10000000 2048) ∧ (snap 0x10000000 2048).len = s.len ∧
      (snap 0x10000000 2048).len.toNat + 4096 ≤ Config.sigCap ∧ 2048 ≤ (snap 0x10000000 2048).len.toNat :=
  ⟨by decide, rfl, rfl, fits (by decide), by decide⟩

/-- `CLR` takes a channel of length 0 and one that fills the least block. -/
theorem witness_ClrZeroesTheBuffer :
    (running (snap 0x20000000 0)).inFlight = some (snap 0x20000000 0) ∧
    (snap 0x20000000 0).len.toNat + 4096 ≤ Config.sigCap ∧ (snap 0x20000000 2048).len.toNat + 4096 ≤ Config.sigCap :=
  ⟨rfl, fits (by decide), fits (by decide)⟩

/-- Three frames, the last one at the end of the channel, into the last slots; and an empty batch whose slot is the
last. -/
theorem witness_FwdTransformsEachFrame :
    let sn := snap 0x300003FD 2048
    (running sn).inFlight = some sn ∧ 3 ≤ 256 ∧ 253 + 3 ≤ 256 ∧ 255 + 0 ≤ 256 ∧
      sn.len.toNat + 4096 ≤ Config.sigCap ∧ sn.hop ≠ 0 ∧
      (sn.framebase.toNat + 3 - 1) * sn.hop.toNat ≤ sn.len.toNat :=
  ⟨rfl, by decide, by decide, by decide, fits (by decide), by decide, by decide⟩

/-- The same batch for `INV`, which leaves the first frame's start at word 0 and the last frame's end at word 6144; with a
hop above the frame size; and with no frame at all. -/
theorem witness_InvAddsFramesInOrder :
    let sn := snap 0x400003FD 2048
    let wide := { snap 0x40000100 2048 with hop := 8191 }
    (running sn).inFlight = some sn ∧ sn.len.toNat + 4096 ≤ Config.sigCap ∧ sn.hop ≠ 0 ∧
      (sn.framebase.toNat + 3 - 1) * sn.hop.toNat ≤ sn.len.toNat ∧
      (running wide).inFlight = some wide ∧ wide.len.toNat + 4096 ≤ Config.sigCap ∧ wide.hop ≠ 0 ∧
      (wide.framebase.toNat + 1 - 1) * wide.hop.toNat ≤ wide.len.toNat ∧
      Outside (.ola .left) (sn.framebase.toNat * sn.hop.toNat) ((3 - 1) * sn.hop.toNat + 4096) 0x30006000 :=
  ⟨rfl, fits (by decide), by decide, by decide, rfl, fits (cmd := 0x40000100) (by decide), by decide, by decide,
    .inr (by decide)⟩

/-- The norms at the edges: the least subnormal and the largest finite value; a channel of 0 and of 2048 words. -/
theorem witness_FinishInterleavesAndNormalizes :
    ∀ norm ∈ [0x3FC00000#32, 0x00000001#32, 0x7F7FFFFF#32], ∀ len ∈ [0#32, 2048#32],
      let sn := { snap 0x70000000 len with norm := norm }
      (running sn).inFlight = some sn ∧ sn.len.toNat + 4096 ≤ Config.sigCap ∧
        sn.norm.extractLsb 30 23 ≠ 0xFF#8 ∧ sn.norm.getLsbD 31 = false ∧ sn.norm.extractLsb 30 0 ≠ 0#31 := by
  intro norm hn len hl
  have h1 : ∀ l ∈ [0#32, 2048#32], l.toNat + 4096 ≤ 6144 := by
    simp only [List.forall_mem_cons, List.not_mem_nil, IsEmpty.forall_iff, implies_true, and_true]
    decide
  have h2 : ∀ n ∈ [0x3FC00000#32, 0x00000001#32, 0x7F7FFFFF#32],
      n.extractLsb 30 23 ≠ 0xFF#8 ∧ n.getLsbD 31 = false ∧ n.extractLsb 30 0 ≠ 0#31 := by
    simp only [List.forall_mem_cons, List.not_mem_nil, IsEmpty.forall_iff, implies_true, and_true]
    decide
  exact ⟨rfl, Nat.le_trans (h1 len hl) sigCap_ge, h2 norm hn⟩

theorem witness_PackFillsTheTensor :
    (running (snap 0x50010000 0)).inFlight = some (snap 0x50010000 0) ∧ 256 ≤ 256 ∧ 0 ≤ 256 := ⟨rfl, by decide, by decide⟩

theorem witness_UnpackRebuildsTheSpectra :
    (running (snap 0x60000000 0)).inFlight = some (snap 0x60000000 0) := rfl

/-- No slot, 87 slots and all slots packed. -/
theorem witness_PackThenUnpackRoundTrip :
    ∀ n ∈ [0, 87, 256], (running (snap (encode (.pack n)) 0)).inFlight = some (snap (encode (.pack n)) 0) ∧ n ≤ 256 := by
  intro n hn
  refine ⟨rfl, ?_⟩
  revert n
  decide

/-! ## The loops -/

theorem witness_PadAndClrEqualTheirLoops : Memory.wf [(0x10002000, 7#8), (0x30000000, 9#8)] := by decide

theorem witness_FinishEqualsItsLoop :
    Memory.wf [(0x30002000, 7#8), (0x50000000, 9#8)] ∧ (snap 0x70000000 2048).len.toNat + 4096 ≤ Config.sigCap :=
  ⟨by decide, fits (by decide)⟩

theorem witness_FwdAndInvEqualTheirLoops : Memory.wf [(0x01000000, 7#8), (0x30000000, 9#8)] ∧ 253 + 3 ≤ 256 := by decide

theorem witness_PackAndUnpackEqualTheirLoops : Memory.wf [(0x00800000, 7#8), (0x01000018, 9#8)] ∧ 256 ≤ 256 := by decide

/-! ## Registers: the host's turn, while idle and while a command runs -/

/-- Reads of every register offset, and of reserved ones. -/
theorem witness_RegisterReads :
    ∀ a ∈ [0x000, 0x004, 0x008, 0x00C, 0x010, 0x014, 0x018, 0x01C, 0x020, 0x024, 0x028, 0x02C, 0x030, 0x034, 0x038, 0xFFC],
      HostTurn (idleWith [wordRead a]) (wordRead a) [] ∧
      HostTurn (busyWith (snap 0 0) [wordRead a]) (wordRead a) [] := fun _ _ => ⟨hostTurn_idle _ _, hostTurn_busy _ _ _⟩

theorem witness_ConstantRegistersReadTheirConstants :
    ∀ a ∈ [0x000, 0x004, 0x008],
      HostTurn (idleWith [wordRead a]) (wordRead a) [] ∧ HostTurn (busyWith (snap 0 0) [wordRead a]) (wordRead a) [] ∧
      HostTurn (idleWith [wordWrite a 7]) (wordWrite a 7) [] ∧
      HostTurn (busyWith (snap 0 0) [wordWrite a 7]) (wordWrite a 7) [] :=
  fun _ _ => ⟨hostTurn_idle _ _, hostTurn_busy _ _ _, hostTurn_idle _ _, hostTurn_busy _ _ _⟩

theorem witness_ConfigurationWritesKeepTheSnapshot :
    ∀ a ∈ [0x024, 0x028, 0x02C, 0x030, 0x018, 0x01C, 0x038],
      HostTurn (idleWith [wordWrite a 0xFFFFFFFF]) (wordWrite a 0xFFFFFFFF) [] ∧
      HostTurn (busyWith (snap 0 0) [wordWrite a 0xFFFFFFFF]) (wordWrite a 0xFFFFFFFF) [] :=
  fun _ _ => ⟨hostTurn_idle _ _, hostTurn_busy _ _ _⟩

/-- Every register of the list has a word its clause is about, here with every flag set and a command in flight. -/
theorem witness_RegisterReadsReturnTheState :
    let s := { busyWith (snap 0 0) [wordRead 0x014] with
      irqen := true, done := true, err := true, ovr := true, errcode := 7, errinfo := 0xFFFFFFFF }
    HostTurn s (wordRead 0x014) [] ∧
    ∀ p ∈ [(0x010, 0x00000002#32), (0x014, 0x0000000F#32), (0x018, 0x00000007#32), (0x01C, 0xFFFFFFFF#32),
        (0x020, 0x00000000#32), (0x024, 0x00000000#32), (0x028, 0x00000400#32), (0x02C, 0x3FC00000#32),
        (0x030, 0x00000000#32), (0x038, 0x00000000#32)],
      (p.1, p.2.toNat) ∈
        [(0x010, 2 * s.irqen.toNat),
         (0x014, 8 * s.ovr.toNat + 4 * s.err.toNat + 2 * s.done.toNat + s.inFlight.isSome.toNat),
         (0x018, s.errcode.toNat), (0x01C, s.errinfo.toNat), (0x020, s.cmd.toNat), (0x024, s.len.toNat),
         (0x028, s.hop.toNat), (0x02C, s.norm.toNat), (0x030, s.framebase.toNat), (0x038, s.cmdcount.toNat)] := by
  refine ⟨⟨rfl, .inl rfl⟩, ?_⟩
  decide

/-- At hop 0, at the largest count, and at reset. -/
theorem witness_NframesCountsTheLiveFrames :
    HostTurn { idleWith [wordRead 0x034] with hop := 0 } (wordRead 0x034) [] ∧
    HostTurn { busyWith (snap 0 0) [wordRead 0x034] with hop := 1, len := 0xFFFFFFFF } (wordRead 0x034) [] ∧
    HostTurn (busyWith (snap 0 0) [wordWrite 0x034 5]) (wordWrite 0x034 5) [] :=
  ⟨⟨rfl, .inr rfl⟩, ⟨rfl, .inl rfl⟩, ⟨rfl, .inl rfl⟩⟩

theorem witness_ReservedOffsetsAndFieldsReadZero :
    (∀ a ∈ [0x00C, 0x03C, 0xFFC],
      a % 4 = 0 ∧ a < 0x1000 ∧
      a ∉ [0x000, 0x004, 0x008, 0x010, 0x014, 0x018, 0x01C, 0x020, 0x024, 0x028, 0x02C, 0x030, 0x034, 0x038] ∧
      HostTurn (idleWith [wordRead a]) (wordRead a) [] ∧
      HostTurn (busyWith (snap 0 0) [wordWrite a 7]) (wordWrite a 7) []) ∧
    (∀ a ∈ [0x010, 0x014, 0x018, 0x028],
      HostTurn (busyWith (snap 0 0) [wordRead a]) (wordRead a) []) ∧
    0xFFFFFFFC#32 &&& 0x00000003#32 = 0x00000000#32 &&& 0x00000003#32 ∧
    0xFFFFFFF1#32 &&& 0x0000000E#32 = 0x00000000#32 &&& 0x0000000E#32 ∧
    0xFFFFE001#32 &&& 0x00001FFF#32 = 0x00000001#32 &&& 0x00001FFF#32 := by
  refine ⟨fun a ha => ?_, fun a _ => hostTurn_busy _ _ _, by decide, by decide, by decide⟩
  refine ⟨?_, ?_, ?_, hostTurn_idle _ _, hostTurn_busy _ _ _⟩ <;> revert a <;> decide

/-- All four combinations of the two bits of a `CTRL` write, and a `STATUS` write of all ones. -/
theorem witness_StatusAndControlWritesActOnTheirFields :
    HostTurn { busyWith (snap 0 0) [wordWrite 0x014 0xFFFFFFFF] with done := true, err := true, ovr := true }
      (wordWrite 0x014 0xFFFFFFFF) [] ∧
    (∀ v ∈ [0x00000000#32, 0x00000002#32, 0xFFFFFFFE#32],
      HostTurn (idleWith [wordWrite 0x010 v]) (wordWrite 0x010 v) [] ∧
      HostTurn (busyWith (snap 0 0) [wordWrite 0x010 v]) (wordWrite 0x010 v) [] ∧ v.getLsbD 0 = false) := by
  refine ⟨⟨rfl, .inl rfl⟩, fun v hv => ⟨hostTurn_idle _ _, hostTurn_busy _ _ _, ?_⟩⟩
  revert v
  simp only [List.forall_mem_cons, List.not_mem_nil, IsEmpty.forall_iff, implies_true, and_true]
  decide

/-- R140, log 14: an aborted `INV` of count 0 has an empty write set, also at the first word of the range the formula of R140
would give it. -/
theorem witness_SoftResetKeepsOtherMemory_empty_batch :
    let inv := { snap 0x40000000 2048 with framebase := 2 }
    HostTurn (busyWith inv [wordWrite 0x010 1]) (wordWrite 0x010 1) [] ∧ (1#32).getLsbD 0 = true ∧
    (busyWith inv []).inFlight = some inv ∧
    inRanges (writeSetOf Config.sigCap inv) ((Region.ola .left).wordAddr (2 * 1024)) = false := by
  intro inv
  refine ⟨hostTurn_busy _ _ _, by decide, rfl, ?_⟩
  have hv : validate Config.sigCap (.inv .left 0 0) inv = none := validate_small (by decide) (by decide)
  have hd : decode inv.cmd = .ok (.inv .left 0 0) := by decide
  simp [writeSetOf, hd, hv, writeSet, inRanges]

/-- A soft reset while idle, and one that aborts a `PAD` whose write set has words outside it. -/
theorem witness_SoftResetKeepsOtherMemory :
    let pad := snap 0x10000000 2048
    (∀ v ∈ [0x00000001#32, 0x00000003#32],
      HostTurn (idleWith [wordWrite 0x010 v]) (wordWrite 0x010 v) [] ∧
      HostTurn (busyWith pad [wordWrite 0x010 v]) (wordWrite 0x010 v) [] ∧ v.getLsbD 0 = true) ∧
    (idleWith []).inFlight = none ∧ (busyWith pad []).inFlight = some pad ∧
    inRanges (writeSetOf Config.sigCap pad) 0x10002000 = false ∧
    inRanges (writeSetOf Config.sigCap pad) 0x10001FFF = true := by
  have h : writeSetOf Config.sigCap (snap 0x10000000 2048) = writeSetOf 6144 (snap 0x10000000 2048) := by
    have hv : validate Config.sigCap (.pad .left) (snap 0x10000000 2048) = none := validate_small (by decide) (by decide)
    have hd : decode (snap 0x10000000 2048).cmd = .ok (.pad .left) := rfl
    have hv' : validate 6144 (.pad .left) (snap 0x10000000 2048) = none := by decide
    simp only [writeSetOf, hd, hv, hv']
  refine ⟨fun v hv => ⟨hostTurn_idle _ _, hostTurn_busy _ _ _, ?_⟩, rfl, rfl, ?_, ?_⟩
  · revert v
    simp only [List.forall_mem_cons, List.not_mem_nil, IsEmpty.forall_iff, implies_true, and_true]
    decide
  · rw [h]; decide +kernel
  · rw [h]; decide +kernel

/-- Each clause: a completion with IRQEN set, and writes while `irq` is high. -/
theorem witness_InterruptFollowsCompletion :
    let s := { running (snap 0 0) with irqen := true }
    let high := fun x => { busyWith (snap 0 0) [x] with irqen := true, done := true }
    s.inFlight = some (snap 0 0) ∧ (∃ t, engineStep s = .next t) ∧
    (∀ v ∈ [0x00000000#32, 0x00000002#32], HostTurn (high (wordWrite 0x014 v)) (wordWrite 0x014 v) []) ∧
    (∀ v ∈ [0x00000000#32, 0x00000001#32, 0x00000002#32, 0x00000003#32],
      HostTurn (high (wordWrite 0x010 v)) (wordWrite 0x010 v) []) ∧
    HostTurn (high (wordWrite 0x020 0)) (wordWrite 0x020 0) [] ∧
    HostTurn (high (wordRead 0x1000)) (wordRead 0x1000) [] ∧ (∃ v, (high (wordWrite 0x020 v)).irq = true) :=
  ⟨rfl, ⟨_, rfl⟩, fun _ _ => ⟨rfl, .inl rfl⟩, fun _ _ => ⟨rfl, .inl rfl⟩, ⟨rfl, .inl rfl⟩, ⟨rfl, .inl rfl⟩, 0, rfl⟩

/-! ## The host port -/

theorem not_mapped_0x1000 : ¬ Mapped 0x1000 := by
  unfold Mapped
  omega

/-- The last unmapped offsets below and above a memory whose size depends on SIG_CAP. -/
theorem not_mapped_past_sig : ¬ Mapped (0x10000000 + 4 * Config.sigCap) ∨ Config.sigCap = 2 ^ 26 := by
  have := sigCap_le
  unfold Mapped
  omega

/-- The four cases of a bus error: size, alignment, no mapping (first and last unmapped offset), a write of `WIN` (first
and last word). -/
theorem witness_BusErrorChangesNothing :
    ∀ x ∈ [⟨.read, 0x014, 2⟩, ⟨.write 1, 0x016, 4⟩, wordRead 0x1000, wordRead 0x7FFFFFFC, wordWrite 0x10000 1,
        wordWrite 0x13FFC 1],
      GetsBusError x ∧ HostTurn (idleWith [x]) x [] ∧ HostTurn (busyWith (snap 0 0) [x]) x [] := by
  intro x hx
  refine ⟨?_, hostTurn_idle _ _, hostTurn_busy _ _ _⟩
  have hcap := sigCap_le
  simp only [List.mem_cons, List.not_mem_nil, or_false] at hx
  rcases hx with rfl | rfl | rfl | rfl | rfl | rfl
  · exact .inl (by decide)
  · exact .inr (.inl (by decide))
  · exact .inr (.inr (.inl not_mapped_0x1000))
  · refine .inr (.inr (.inl ?_))
    show ¬ Mapped 0x7FFFFFFC
    unfold Mapped
    omega
  · exact .inr (.inr (.inr (by decide)))
  · exact .inr (.inr (.inr (by decide)))

/-- The first and the last word of memories of both kinds of size. -/
theorem witness_MemoryWriteThenReadReturnsIt :
    Region.isMemory (.sig .right) = true ∧ Config.sigCap - 1 < Region.words Config.sigCap (.sig .right) ∧
    Region.isMemory .ten = true ∧ 2097151 < Region.words Config.sigCap .ten ∧
    (∀ a v, (idleWith [wordWrite a v, wordRead a]).inFlight = none ∧
      (idleWith [wordWrite a v, wordRead a]).port = [wordWrite a v, wordRead a]) := by
  have := sigCap_ge
  have last : Config.sigCap - 1 < Region.words Config.sigCap (.sig .right) := by
    rw [Region.words_sig]
    omega
  have lastTen : 2097151 < Region.words Config.sigCap .ten := by
    rw [Region.words_ten]
    omega
  exact ⟨rfl, last, rfl, lastTen, fun _ _ => ⟨idleWith_inFlight _, idleWith_port _⟩⟩

theorem witness_MemoryReadsHaveNoSideEffect :
    Region.isMemory .out = true ∧ 0 < Region.words Config.sigCap .out ∧
    (∀ a, (idleWith [wordRead a]).inFlight = none ∧ (idleWith [wordRead a]).port = [wordRead a]) ∧ 4095 < 4096 := by
  have := sigCap_ge
  have first : 0 < Region.words Config.sigCap .out := by
    rw [Region.words_out]
    omega
  exact ⟨rfl, first, fun _ => ⟨idleWith_inFlight _, idleWith_port _⟩, by decide⟩

/-- A read of `WIN`, and a write of the last word of `TEN`, are served, and held. -/
theorem witness_MemoryAccessIsHeldWhileBusy :
    ∀ x ∈ [wordRead 0x10000, wordRead 0x13FFC, wordWrite 0x00800000 1, wordWrite 0x00FFFFFC 1],
      (busyWith (snap 0 0) [x]).inFlight = some (snap 0 0) ∧ (busyWith (snap 0 0) [x]).port = [x] ∧
      ¬ GetsBusError x ∧ 0x1000 ≤ x.addr.toNat := by
  intro x hx
  simp only [List.mem_cons, List.not_mem_nil, or_false] at hx
  have hm : ∀ n : Nat, (0x10000 ≤ n ∧ n < 0x14000) ∨ (0x00800000 ≤ n ∧ n < 0x02000000) → Mapped n := by
    intro n hn
    unfold Mapped
    omega
  rcases hx with rfl | rfl | rfl | rfl <;>
    refine ⟨rfl, rfl, ?_, by decide⟩ <;>
    · rintro (h | h | h | h)
      · exact absurd h (by decide)
      · exact absurd h (by decide)
      · exact h (hm _ (by decide))
      · exact absurd h (by decide)

/-- A step that answers, and one that does not. -/
theorem witness_PortAnswersInIssueOrder :
    (∃ t, step (idleWith [wordRead 0x000, wordRead 0x004]) = .next t) ∧
    (∃ t, step (running (snap 0 0)) = .next t) := ⟨⟨_, rfl⟩, ⟨_, rfl⟩⟩

/-- The first and the last address of the window, and the one after it. -/
theorem witness_OnlyTheWindowReachesTheBlock :
    0 < 2 ^ 31 ∧ Config.base + (2 ^ 31 - 1) = Config.base + 0x7FFFFFFF ∧
    Config.base + 2 ^ 31 ≤ Config.base + 2 ^ 31 := ⟨by decide, by omega, Nat.le_refl _⟩

/-! ## The whole machine -/

/-- A state that is not reset: two bytes written, the last ones of `TEN` and the first of `SPEC[0]`, an error recorded,
a command in flight and a step that runs it. -/
theorem witness_EveryStepKeepsTheInvariant :
    let s := { running (snap 0x50010000 0) with
      mem := [(0x00FFFFFF, 1#8), (0x01000000, 2#8)], err := true, errcode := 7, errinfo := 0x70000000 }
    Invariant s ∧ ∃ t, step s = .next t := by
  intro s
  refine ⟨⟨by decide, ?_, ?_, fun _ => ⟨.badNorm, rfl⟩, ?_⟩, _, rfl⟩
  · intro c hc
    simp only [s, List.mem_cons, List.not_mem_nil, or_false] at hc
    rcases hc with rfl | rfl <;> rfl
  · intro h
    cases h
  · intro sn h
    cases h
    rfl

/-- Busy with two turns of the host listed before the engine's. -/
theorem witness_EveryCommandEnds :
    ({ busyWith (snap 0 0) [wordRead 0, wordRead 4] with turns := [.host, .host] }).busy = true := rfl

/-- A step of each kind: a completion, a soft reset, and a read. -/
theorem witness_OnlyCompletionsCount :
    (∃ t, step (running (snap 0 0)) = .next t) ∧ (∃ t, step (idleWith [wordWrite 0x010 1]) = .next t) ∧
    (∃ t, step (idleWith [wordRead 0x038]) = .next t) := ⟨⟨_, rfl⟩, ⟨_, rfl⟩, ⟨_, rfl⟩⟩

/-- A completion, and a host write of the first word of `TEN` while idle. -/
theorem witness_MemoryIsStableWhileBusy :
    (∃ t, step (running (snap 0x60000000 0)) = .next t) ∧
    (∃ t, step (idleWith [wordWrite 0x00800000 1]) = .next t) := ⟨⟨_, rfl⟩, ⟨_, rfl⟩⟩

/-- `ERR` set, and a step of each kind: a failing command, the acknowledgement, the soft reset. -/
theorem witness_FirstErrorStandsUntilCleared :
    let failed := fun s : State => { s with err := true, errcode := 4#8, errinfo := 0x10000000#32 }
    ∀ s ∈ [failed (running (snap 0x80000000 0)), failed (idleWith [wordWrite 0x014 4]),
        failed (idleWith [wordWrite 0x010 1])], s.err = true ∧ ∃ t, step s = .next t := by
  intro failed s hs
  simp only [List.mem_cons, List.not_mem_nil, or_false] at hs
  rcases hs with rfl | rfl | rfl <;> exact ⟨rfl, _, rfl⟩

theorem witness_RegistersNeverDependOnData : ∃ t, engineStep (running (snap 0x50005700 0)) = .next t := ⟨_, rfl⟩

/-- Two states that differ in their live registers, error record and port. -/
theorem witness_ResultDependsOnSnapshotAndMemory :
    let s := running (snap 0x50005700 0)
    let s' := { running (snap 0x50005700 0) with
      len := 9, hop := 0, norm := 0, err := true, errcode := 1, port := [wordRead 0], cmdcount := 5 }
    s.inFlight = s'.inFlight ∧ s.mem = s'.mem ∧ (∃ t, engineStep s = .next t) ∧ ∃ t', engineStep s' = .next t' :=
  ⟨rfl, rfl, ⟨_, rfl⟩, ⟨_, rfl⟩⟩

/-! ## Arithmetic -/

/-- The zeros, the least subnormal and the largest finite words are finite. -/
theorem witness_FmulRoundsTheExactProduct :
    ∀ a ∈ [0x00000000#32, 0x80000000#32, 0x00000001#32, 0x7F7FFFFF#32, 0xFF7FFFFF#32], F32.isFinite a = true := by
  simp only [List.forall_mem_cons, List.not_mem_nil, IsEmpty.forall_iff, implies_true, and_true]
  decide

/-- A word of nonzero units denotes a nonzero number. -/
theorem toReal_ne_zero {b : Word} (h : F32.signedUnits b ≠ 0) : F32.toReal b ≠ 0 := by
  unfold F32.toReal
  have : ((F32.signedUnits b : ℤ) : ℝ) ≠ 0 := by exact_mod_cast h
  positivity

theorem witness_FdivRoundsTheExactQuotient :
    F32.isFinite 0x80000000 = true ∧
    ∀ b ∈ [0x00000001#32, 0x807FFFFF#32], F32.isFinite b = true ∧ F32.toReal b ≠ 0 := by
  refine ⟨by decide, fun b hb => ?_⟩
  have h : F32.isFinite b = true ∧ F32.signedUnits b ≠ 0 := by
    revert b
    simp only [List.forall_mem_cons, List.not_mem_nil, IsEmpty.forall_iff, implies_true, and_true]
    decide
  exact ⟨h.1, toReal_ne_zero h.2⟩

theorem witness_FaddRoundsTheExactSum :
    F32.isFinite 0x80000000 = true ∧ F32.isFinite 0x7F7FFFFF = true ∧
    F32.isInf 0x7F800000 = true ∧ F32.isInf 0xFF800000 = true := by decide

/-- The clauses of infinite operands and of division by zero: both infinities, against both zeros and the least subnormal. -/
theorem witness_infinite_operands :
    (F32.isInf 0x7F800000 = true ∧ F32.isNaN 0x7F800000 = false) ∧
    (F32.isInf 0xFF800000 = true ∧ F32.isNaN 0xFF800000 = false) ∧
    (F32.isZero 0x80000000 = true ∧ F32.isFinite 0x80000000 = true ∧ F32.isNaN 0x80000000 = false) ∧
    (F32.isZero 0x00000000 = true ∧ F32.isFinite 0x00000000 = true ∧ F32.isNaN 0x00000000 = false) ∧
    (F32.isZero 0x00000001 = false ∧ F32.isFinite 0x00000001 = true ∧ F32.isNaN 0x00000001 = false) := by decide

/-- A NaN of infinities. -/
theorem witness_EveryNanResultIsCanonical : F32.isNaN (F32.fadd 0x7F800000 0xFF800000) = true := by decide

theorem witness_WindowIsCorrectlyRounded : 0 < 4096 ∧ 4095 < 4096 := by decide

/-- At hop 1024 the first and the last interior sample of a channel of 4096, where 4096 / H = 4; at hop 1 every sample up
to the last full frame. -/
theorem witness_InteriorGainIsTheColaConstant :
    1024 ∣ 4096 ∧ 3 ≤ 4096 / 1024 ∧ Interior 4096 1024 1024 ∧ Interior 4096 1024 3072 ∧
    1 ∣ 4096 ∧ 3 ≤ 4096 / 1 ∧ Interior 4096 1 2047 := by
  refine ⟨by decide, by decide, ?_, ?_, by decide, by decide, ?_⟩ <;> (unfold Interior; decide)

theorem witness_EdgeGainLacksTheMissingFrame : 2047 < 2048 ∧ 2048 ≤ 2048 ∧ 0 < 1024 ∧ 1023 < 1024 := by decide

end Sys2Proof.Tests
end

section
/-! SUPPORT. The laws of the binary32 words: a word as its sign and its lower 31 bits, the classes and the units of a word
by those bits, and the rounding of `num / den` units to the nearest word (spec/00_scope.md R10). -/

namespace Sys2Proof.Machine

/-! ## A word is its sign and its magnitude -/

/-- The lower 31 bits of a word. -/
def F32.magnitude (w : Word) : Nat := w.toNat % 2 ^ 31

theorem F32.magnitude_lt (w : Word) : F32.magnitude w < 2 ^ 31 := Nat.mod_lt _ (by norm_num)

theorem F32.sign_eq (w : Word) : F32.sign w = decide (2 ^ 31 ≤ w.toNat) := by
  simp [F32.sign, BitVec.msb_eq_decide]

theorem F32.toNat_ofMagnitude (s : Bool) {n : Nat} (hn : n < 2 ^ 31) :
    (F32.ofMagnitude s n).toNat = (if s then 2 ^ 31 else 0) + n := by
  rw [F32.ofMagnitude, BitVec.toNat_append, BitVec.toNat_ofNat, Nat.mod_eq_of_lt hn,
    Nat.shiftLeft_eq, mul_comm, ← Nat.two_pow_add_eq_or_of_lt hn]
  cases s <;> simp

@[simp] theorem F32.sign_ofMagnitude (s : Bool) (n : Nat) : F32.sign (F32.ofMagnitude s n) = s := by
  rw [F32.sign, F32.ofMagnitude, BitVec.msb_append]
  cases s <;> simp

theorem F32.magnitude_ofMagnitude (s : Bool) {n : Nat} (hn : n < 2 ^ 31) :
    F32.magnitude (F32.ofMagnitude s n) = n := by
  rw [F32.magnitude, F32.toNat_ofMagnitude s hn]
  cases s <;> simp <;> omega

/-- A word is fixed by its sign and its magnitude. -/
theorem F32.ofMagnitude_sign_magnitude (w : Word) : F32.ofMagnitude (F32.sign w) (F32.magnitude w) = w := by
  apply BitVec.eq_of_toNat_eq
  rw [F32.toNat_ofMagnitude _ (F32.magnitude_lt w), F32.sign_eq, F32.magnitude]
  have := w.isLt
  simp only [decide_eq_true_eq]
  split_ifs <;> omega

theorem F32.expField_eq (w : Word) : F32.expField w = F32.magnitude w / 2 ^ 23 := by
  simp only [F32.expField, F32.magnitude, BitVec.extractLsb_toNat, Nat.shiftRight_eq_div_pow]
  omega

theorem F32.fracField_eq (w : Word) : F32.fracField w = F32.magnitude w % 2 ^ 23 := by
  simp only [F32.fracField, F32.magnitude, BitVec.extractLsb_toNat, Nat.shiftRight_eq_div_pow]
  omega

/-! ## The classes of a word by its magnitude -/

theorem F32.isNaN_eq (w : Word) : F32.isNaN w = decide (F32.infBits < F32.magnitude w) := by
  have := F32.magnitude_lt w
  rw [Bool.eq_iff_iff]
  simp only [F32.isNaN, F32.expField_eq, F32.fracField_eq, Bool.and_eq_true, beq_iff_eq, bne_iff_ne,
    decide_eq_true_eq, F32.infBits]
  omega

theorem F32.isInf_eq (w : Word) : F32.isInf w = decide (F32.magnitude w = F32.infBits) := by
  rw [Bool.eq_iff_iff]
  simp only [F32.isInf, F32.expField_eq, F32.fracField_eq, Bool.and_eq_true, beq_iff_eq, decide_eq_true_eq, F32.infBits]
  omega

theorem F32.isZero_eq (w : Word) : F32.isZero w = decide (F32.magnitude w = 0) := by
  rw [Bool.eq_iff_iff]
  simp only [F32.isZero, F32.expField_eq, F32.fracField_eq, Bool.and_eq_true, beq_iff_eq, decide_eq_true_eq]
  omega

theorem F32.isFinite_eq (w : Word) : F32.isFinite w = decide (F32.magnitude w < F32.infBits) := by
  have := F32.magnitude_lt w
  rw [Bool.eq_iff_iff]
  simp only [F32.isFinite, F32.expField_eq, bne_iff_ne, decide_eq_true_eq, F32.infBits]
  omega

/-! ## The units of a magnitude -/

/-- The units of the word with these lower 31 bits, going on past infinity as if exponents had no end. -/
def F32.unitsOfBits (n : Nat) : Nat :=
  if n / 2 ^ 23 = 0 then n % 2 ^ 23 else (2 ^ 23 + n % 2 ^ 23) * 2 ^ (n / 2 ^ 23 - 1)

theorem F32.units_eq (w : Word) : F32.units w = F32.unitsOfBits (F32.magnitude w) := by
  rw [F32.units, F32.expField_eq, F32.fracField_eq, F32.unitsOfBits]

/-- `m` last places at place `p`, also where `m` carries into the next exponent. -/
theorem F32.unitsOfBits_place_add {p m : Nat} (hm : m ≤ 2 ^ 24) (hp : p = 0 ∨ 2 ^ 23 ≤ m) :
    F32.unitsOfBits (p * 2 ^ 23 + m) = m * 2 ^ p := by
  rcases lt_or_ge m (2 ^ 23) with hlt | hge
  · obtain rfl : p = 0 := by omega
    rw [F32.unitsOfBits, if_pos (by omega), Nat.zero_mul, Nat.zero_add, Nat.mod_eq_of_lt hlt, pow_zero, mul_one]
  rcases hm.lt_or_eq with hm | rfl
  · have he : (p * 2 ^ 23 + m) / 2 ^ 23 = p + 1 := by omega
    have hf : (p * 2 ^ 23 + m) % 2 ^ 23 = m - 2 ^ 23 := by omega
    rw [F32.unitsOfBits, he, hf, if_neg (by omega), Nat.add_sub_cancel, Nat.add_sub_cancel' hge]
  · have he : (p * 2 ^ 23 + 2 ^ 24) / 2 ^ 23 = p + 2 := by omega
    have hf : (p * 2 ^ 23 + 2 ^ 24) % 2 ^ 23 = 0 := by omega
    rw [F32.unitsOfBits, he, hf, if_neg (by omega)]
    simp only [Nat.add_zero, Nat.add_succ_sub_one, pow_succ]
    ring

theorem F32.unitsOfBits_place_add_succ {p m : Nat} (hm : m < 2 ^ 24) (hp : p = 0 ∨ 2 ^ 23 ≤ m) :
    F32.unitsOfBits (p * 2 ^ 23 + m + 1) = (m + 1) * 2 ^ p := by
  rw [add_assoc]
  exact F32.unitsOfBits_place_add (by omega) (by omega)

theorem F32.exists_place (n : Nat) :
    ∃ p m, n = p * 2 ^ 23 + m ∧ m < 2 ^ 24 ∧ (p = 0 ∨ 2 ^ 23 ≤ m) :=
  ⟨n / 2 ^ 23 - 1, n - (n / 2 ^ 23 - 1) * 2 ^ 23, by omega, by omega, by omega⟩

theorem F32.unitsOfBits_strictMono : StrictMono F32.unitsOfBits := by
  apply strictMono_nat_of_lt_succ
  intro n
  obtain ⟨p, m, rfl, hm, hp⟩ := F32.exists_place n
  rw [F32.unitsOfBits_place_add hm.le hp, F32.unitsOfBits_place_add_succ hm hp]
  exact Nat.mul_lt_mul_of_pos_right (Nat.lt_succ_self m) (by positivity)

theorem F32.unitsOfBits_infBits : F32.unitsOfBits F32.infBits = 2 ^ 24 * 2 ^ 253 :=
  F32.unitsOfBits_place_add (p := 253) (m := 2 ^ 24) le_rfl (by norm_num)

theorem F32.unitsOfBits_largestFinite : F32.unitsOfBits (F32.infBits - 1) = (2 ^ 24 - 1) * 2 ^ 253 :=
  F32.unitsOfBits_place_add (p := 253) (m := 2 ^ 24 - 1) (by norm_num) (by norm_num)

theorem F32.units_eq_zero_iff (w : Word) : F32.units w = 0 ↔ F32.magnitude w = 0 := by
  rw [F32.units_eq]
  exact F32.unitsOfBits_strictMono.injective.eq_iff (b := 0)

/-! ## The value of a word -/

/-- The factor a sign bit stands for. -/
noncomputable def F32.signFactor (s : Bool) : ℝ := if s then -1 else 1

@[simp] theorem F32.signFactor_true : F32.signFactor true = -1 := rfl
@[simp] theorem F32.signFactor_false : F32.signFactor false = 1 := rfl

theorem F32.signFactor_xor (s t : Bool) : F32.signFactor (s ^^ t) = F32.signFactor s * F32.signFactor t := by
  cases s <;> cases t <;> simp

theorem F32.signFactor_mul_self (s : Bool) : F32.signFactor s * F32.signFactor s = 1 := by
  cases s <;> simp

theorem F32.signFactor_inv (s : Bool) : (F32.signFactor s)⁻¹ = F32.signFactor s :=
  inv_eq_of_mul_eq_one_right (F32.signFactor_mul_self s)

theorem F32.abs_signFactor (s : Bool) : |F32.signFactor s| = 1 := by cases s <;> simp

theorem F32.signedUnits_cast (w : Word) : (F32.signedUnits w : ℝ) = F32.signFactor (F32.sign w) * F32.units w := by
  rw [F32.signedUnits]
  cases F32.sign w <;> simp

theorem F32.toReal_eq (w : Word) :
    F32.toReal w = F32.signFactor (F32.sign w) * (F32.units w / 2 ^ 149) := by
  rw [F32.toReal, F32.signedUnits_cast, mul_div_assoc]

theorem F32.toReal_eq_zero_iff (w : Word) : F32.toReal w = 0 ↔ F32.magnitude w = 0 := by
  rw [← F32.units_eq_zero_iff, F32.toReal_eq]
  cases F32.sign w <;> simp

/-! ## Rounding to a whole number -/

/-- The quotient is kept at most halfway to the next number, and left at least halfway; the halfway case goes to the even
number. -/
theorem F32.nearestEven_cases (num : Nat) {den : Nat} (hden : 0 < den) :
    (F32.nearestEven num den = num / den ∧ 2 * num ≤ (2 * (num / den) + 1) * den ∧
      (2 * num = (2 * (num / den) + 1) * den → num / den % 2 = 0)) ∨
    (F32.nearestEven num den = num / den + 1 ∧ (2 * (num / den) + 1) * den ≤ 2 * num ∧
      (2 * num = (2 * (num / den) + 1) * den → num / den % 2 = 1)) := by
  have hsplit : 2 * num = 2 * (num / den) * den + 2 * (num % den) := by
    conv_lhs => rw [← Nat.div_add_mod num den]
    ring
  have hhalf : (2 * (num / den) + 1) * den = 2 * (num / den) * den + den := by ring
  have hlt := Nat.mod_lt num hden
  rw [hsplit, hhalf, F32.nearestEven]
  generalize 2 * (num / den) * den = base
  split_ifs with h
  · exact .inr ⟨rfl, by omega, by omega⟩
  · exact .inl ⟨rfl, by omega, by omega⟩

/-! ## Rounding to a magnitude -/

/-- `q` units lie from the magnitude `b` up to the next one, and `r` is the nearer of the two, of two equally near ones the
even one. -/
structure F32.RoundsTo (q : ℝ) (b r : Nat) : Prop where
  lower : (F32.unitsOfBits b : ℝ) ≤ q
  upper : q < F32.unitsOfBits (b + 1)
  nearer :
    (r = b ∧ 2 * q ≤ F32.unitsOfBits b + F32.unitsOfBits (b + 1) ∧
      (2 * q = F32.unitsOfBits b + F32.unitsOfBits (b + 1) → b % 2 = 0)) ∨
    (r = b + 1 ∧ (F32.unitsOfBits b + F32.unitsOfBits (b + 1) : ℝ) ≤ 2 * q ∧
      (2 * q = F32.unitsOfBits b + F32.unitsOfBits (b + 1) → b % 2 = 1))

/-- The last place leaves a quotient of at most 24 bits, and of exactly 24 where it lies above one unit. -/
theorem F32.lastPlace_spec (num den : Nat) :
    num / (den * 2 ^ F32.lastPlace num den) < 2 ^ 24 ∧
    (F32.lastPlace num den = 0 ∨ 2 ^ 23 ≤ num / (den * 2 ^ F32.lastPlace num den)) := by
  rw [← Nat.div_div_eq_div_mul, F32.lastPlace]
  generalize num / den = k
  constructor
  · rw [Nat.div_lt_iff_lt_mul (by positivity), ← pow_add]
    exact Nat.lt_log2_self.trans_le (Nat.pow_le_pow_right (by norm_num) (by omega))
  · rcases Nat.eq_zero_or_pos (Nat.log2 k - 23) with h | h
    · exact .inl h
    · right
      rw [Nat.le_div_iff_mul_le (by positivity), ← pow_add, show 23 + (Nat.log2 k - 23) = Nat.log2 k by omega]
      exact Nat.log2_self_le (by rintro rfl; simp at h)

/-- `roundUnits` rounds to the nearest magnitude and then cuts off at infinity. -/
theorem F32.roundUnits_roundsTo (num : Nat) {den : Nat} (hden : 0 < den) :
    ∃ b r, F32.RoundsTo (num / den) b r ∧ F32.roundUnits num den = min r F32.infBits := by
  obtain ⟨hlt, hge⟩ := F32.lastPlace_spec num den
  refine ⟨F32.lastPlace num den * 2 ^ 23 + num / (den * 2 ^ F32.lastPlace num den), _, ?_, rfl⟩
  generalize F32.lastPlace num den = p at *
  have hdenp : 0 < den * 2 ^ p := by positivity
  have hdenR : (0 : ℝ) < den := by exact_mod_cast hden
  have hround := F32.nearestEven_cases num hdenp
  have hfloor := Nat.div_mul_le_self num (den * 2 ^ p)
  have hceil := Nat.lt_mul_of_div_lt (Nat.lt_succ_self (num / (den * 2 ^ p))) hdenp
  generalize num / (den * 2 ^ p) = m at *
  have hb : F32.unitsOfBits (p * 2 ^ 23 + m) = m * 2 ^ p := F32.unitsOfBits_place_add hlt.le hge
  have hb' : F32.unitsOfBits (p * 2 ^ 23 + m + 1) = (m + 1) * 2 ^ p := F32.unitsOfBits_place_add_succ hlt hge
  have hmid : (F32.unitsOfBits (p * 2 ^ 23 + m) + F32.unitsOfBits (p * 2 ^ 23 + m + 1) : ℝ) =
      ((2 * m + 1) * (den * 2 ^ p) : ℕ) / den := by
    rw [hb, hb']
    push_cast
    field_simp
    ring
  have hparity : (p * 2 ^ 23 + m) % 2 = m % 2 := by omega
  refine ⟨?_, ?_, ?_⟩
  · rw [hb, le_div_iff₀ hdenR]
    exact_mod_cast (by linarith : m * 2 ^ p * den ≤ num)
  · rw [hb', div_lt_iff₀ hdenR]
    exact_mod_cast (by linarith : num < (m + 1) * 2 ^ p * den)
  · rw [hmid, ← mul_div_assoc, div_le_div_iff_of_pos_right hdenR, div_le_div_iff_of_pos_right hdenR,
      div_left_inj' hdenR.ne', hparity, add_assoc, Nat.add_left_cancel_iff, Nat.add_left_cancel_iff]
    exact_mod_cast hround

theorem F32.roundUnits_le (num den : Nat) : F32.roundUnits num den ≤ F32.infBits := min_le_right _ _

@[simp] theorem F32.roundUnits_zero (den : Nat) : F32.roundUnits 0 den = 0 := by
  simp [F32.roundUnits, F32.lastPlace, F32.nearestEven]

section
variable {q : ℝ} {b r : Nat}

/-- The rounded magnitude is as near as any value that does not lie strictly between the two magnitudes around `q`. -/
theorem F32.RoundsTo.dist_le (h : F32.RoundsTo q b r) {t : ℝ}
    (ht : t ≤ F32.unitsOfBits b ∨ (F32.unitsOfBits (b + 1) : ℝ) ≤ t) :
    |q - F32.unitsOfBits r| ≤ |q - t| := by
  obtain ⟨hlo, hup, ⟨rfl, hmid, -⟩ | ⟨rfl, hmid, -⟩⟩ := h
  · rw [abs_of_nonneg (sub_nonneg.2 hlo)]
    rcases ht with ht | ht
    · exact (by linarith : _ ≤ q - t).trans (le_abs_self _)
    · exact (by linarith : _ ≤ -(q - t)).trans (neg_le_abs _)
  · rw [abs_of_neg (sub_neg.2 hup)]
    rcases ht with ht | ht
    · exact (by linarith : _ ≤ q - t).trans (le_abs_self _)
    · exact (by linarith : _ ≤ -(q - t)).trans (neg_le_abs _)

/-- Where another such value is equally near, `q` lies halfway and the rounded magnitude is even. -/
theorem F32.RoundsTo.even_of_tie (h : F32.RoundsTo q b r) {t : ℝ}
    (ht : t ≤ F32.unitsOfBits b ∨ (F32.unitsOfBits (b + 1) : ℝ) ≤ t) (hne : t ≠ F32.unitsOfBits r)
    (htie : |q - t| = |q - F32.unitsOfBits r|) : r % 2 = 0 := by
  have hreflect : t = 2 * q - F32.unitsOfBits r := by
    rcases abs_eq_abs.1 htie with h | h
    · exact absurd (by linarith) hne
    · linarith
  obtain ⟨hlo, hup, ⟨rfl, hmid, heven⟩ | ⟨rfl, hmid, hodd⟩⟩ := h
  · refine heven ?_
    rcases ht with ht | ht
    · exact absurd (by linarith) hne
    · linarith
  · have : b % 2 = 1 := hodd (by rcases ht with ht | ht <;> linarith)
    omega

/-- Rounding reaches infinity from halfway past the largest finite value on. -/
theorem F32.RoundsTo.infBits_le_iff (h : F32.RoundsTo q b r) :
    F32.infBits ≤ r ↔ ((2 ^ 25 - 1) * 2 ^ 252 : ℝ) ≤ q := by
  have hinf : (F32.unitsOfBits F32.infBits : ℝ) = 2 ^ 24 * 2 ^ 253 := by
    rw [F32.unitsOfBits_infBits]; norm_num
  have hmax : (F32.unitsOfBits (F32.infBits - 1) : ℝ) = (2 ^ 24 - 1) * 2 ^ 253 := by
    rw [F32.unitsOfBits_largestFinite]; norm_num
  have hmono {m n : Nat} (hmn : m ≤ n) : (F32.unitsOfBits m : ℝ) ≤ F32.unitsOfBits n :=
    Nat.cast_le.2 (F32.unitsOfBits_strictMono.monotone hmn)
  obtain ⟨hlo, hup, ⟨rfl, hmid, heven⟩ | ⟨rfl, hmid, -⟩⟩ := h
  · refine ⟨fun hr => by linarith [hmono hr], fun hq => ?_⟩
    by_contra hr
    have hb : F32.infBits - 1 ≤ r := by
      by_contra hlt
      linarith [hmono (by omega : r + 1 ≤ F32.infBits - 1)]
    obtain rfl : r = F32.infBits - 1 := by omega
    rw [Nat.sub_add_cancel (by norm_num), hinf, hmax] at *
    exact absurd (heven (by linarith)) (by norm_num)
  · refine ⟨fun hr => ?_, fun hq => ?_⟩
    · linarith [hmono hr, hmono (by omega : F32.infBits - 1 ≤ b)]
    · by_contra hr
      linarith [hmono (by omega : b + 1 ≤ F32.infBits - 1)]

end

/-! ## Rounding to a word -/

theorem F32.units_ofMagnitude (s : Bool) {n : Nat} (hn : n < 2 ^ 31) :
    F32.units (F32.ofMagnitude s n) = F32.unitsOfBits n := by
  rw [F32.units_eq, F32.magnitude_ofMagnitude s hn]

theorem F32.getLsbD_zero_ofMagnitude (s : Bool) {n : Nat} (hn : n < 2 ^ 31) :
    (F32.ofMagnitude s n).getLsbD 0 = decide (n % 2 = 1) := by
  rw [BitVec.getLsbD, F32.toNat_ofMagnitude s hn, Nat.testBit_zero]
  congr 2
  split_ifs <;> omega

/-- Distances to a word's value, in units and seen from the side of the sign `s`. -/
theorem F32.abs_sub_toReal (s : Bool) (q : ℝ) (v : Word) :
    |F32.signFactor s * (q / 2 ^ 149) - F32.toReal v| =
      |q - F32.signFactor (s ^^ F32.sign v) * F32.units v| / 2 ^ 149 := by
  have h : q - F32.signFactor (s ^^ F32.sign v) * F32.units v =
      F32.signFactor s * (F32.signFactor s * q - F32.signFactor (F32.sign v) * F32.units v) := by
    rw [F32.signFactor_xor]
    linear_combination -q * F32.signFactor_mul_self s
  rw [h, abs_mul, F32.abs_signFactor, one_mul, F32.toReal_eq, ← mul_div_assoc, ← mul_div_assoc, ← sub_div,
    abs_div, abs_of_pos (by positivity : (0 : ℝ) < 2 ^ 149)]

/-- No word's value, taken with either sign, lies strictly between two neighbouring magnitudes. -/
theorem F32.signed_units_not_between (s : Bool) (v : Word) (b : Nat) :
    F32.signFactor s * F32.units v ≤ F32.unitsOfBits b ∨
    (F32.unitsOfBits (b + 1) : ℝ) ≤ F32.signFactor s * F32.units v := by
  cases s with
  | true =>
    have : (0 : ℝ) ≤ F32.units v := Nat.cast_nonneg _
    have : (0 : ℝ) ≤ F32.unitsOfBits b := Nat.cast_nonneg _
    left
    simp only [F32.signFactor_true]
    linarith
  | false =>
    rw [F32.signFactor_false, one_mul, F32.units_eq]
    exact (le_or_gt (F32.magnitude v) b).imp
      (fun h => Nat.cast_le.2 (F32.unitsOfBits_strictMono.monotone h))
      (fun h => Nat.cast_le.2 (F32.unitsOfBits_strictMono.monotone h))

/-- The word of sign `s` and of a finite rounded magnitude is finite, has the nearest value, an even last place where
another value is equally near, and the sign of what it rounds. -/
theorem F32.RoundsTo.ofMagnitude_nearest {q : ℝ} {b r : Nat} (h : F32.RoundsTo q b r) (hr : r < F32.infBits)
    (s : Bool) (x : ℝ) (hx : x = F32.signFactor s * (q / 2 ^ 149)) :
    F32.isFinite (F32.ofMagnitude s r) = true ∧
    (∀ v : Word, F32.isFinite v = true → |x - F32.toReal (F32.ofMagnitude s r)| ≤ |x - F32.toReal v|) ∧
    (∀ v : Word, F32.isFinite v = true → F32.toReal v ≠ F32.toReal (F32.ofMagnitude s r) →
      |x - F32.toReal v| = |x - F32.toReal (F32.ofMagnitude s r)| →
      (F32.ofMagnitude s r).getLsbD 0 = false) ∧
    (0 < x → F32.sign (F32.ofMagnitude s r) = false) ∧ (x < 0 → F32.sign (F32.ofMagnitude s r) = true) := by
  have hr31 : r < 2 ^ 31 := hr.trans (by norm_num)
  have hq : 0 ≤ q := (Nat.cast_nonneg _).trans h.lower
  have hdist : |x - F32.toReal (F32.ofMagnitude s r)| = |q - F32.unitsOfBits r| / 2 ^ 149 := by
    rw [hx, F32.abs_sub_toReal, F32.sign_ofMagnitude, F32.units_ofMagnitude s hr31, Bool.xor_self,
      F32.signFactor_false, one_mul]
  refine ⟨?_, fun v _ => ?_, fun v _ hne htie => ?_, ?_⟩
  · rwa [F32.isFinite_eq, F32.magnitude_ofMagnitude s hr31, decide_eq_true_eq]
  · rw [hdist, hx, F32.abs_sub_toReal]
    exact div_le_div_of_nonneg_right (h.dist_le (F32.signed_units_not_between _ v b)) (by positivity)
  · rw [hdist, hx, F32.abs_sub_toReal, div_left_inj' (by positivity)] at htie
    have heven := h.even_of_tie (F32.signed_units_not_between _ v b) (fun heq => hne ?_) htie
    · rw [F32.getLsbD_zero_ofMagnitude s hr31, heven]
      rfl
    · rw [F32.toReal_eq, F32.toReal_eq, F32.sign_ofMagnitude, F32.units_ofMagnitude s hr31, ← heq, F32.signFactor_xor]
      linear_combination (-F32.signFactor (F32.sign v) * F32.units v / 2 ^ 149) * F32.signFactor_mul_self s
  · rw [F32.sign_ofMagnitude, hx]
    have : 0 ≤ q / 2 ^ 149 := by positivity
    cases s with
    | true => simp; positivity
    | false => simp; positivity

/-- The one rounding of R10: the word of sign `s` and magnitude `roundUnits num den` is `rne` of `num / den` units with that
sign. -/
theorem isRne_ofMagnitude_roundUnits (s : Bool) (num : Nat) {den : Nat} (hden : 0 < den) :
    IsRne (F32.signFactor s * ((num / den : ℝ) / 2 ^ 149)) (F32.ofMagnitude s (F32.roundUnits num den)) := by
  obtain ⟨b, r, h, hround⟩ := F32.roundUnits_roundsTo num hden
  rw [hround]
  have hoverflow : (2 : ℝ) ^ 128 - 2 ^ 103 ≤ (num / den : ℝ) / 2 ^ 149 ↔ F32.infBits ≤ r := by
    rw [h.infBits_le_iff, le_div_iff₀ (by positivity)]
    norm_num
  have hnonneg : (0 : ℝ) ≤ (num / den : ℝ) / 2 ^ 149 := by positivity
  generalize hy : (num / den : ℝ) / 2 ^ 149 = y at *
  rcases le_or_gt F32.infBits r with hinf | hfin
  · have hlarge := hoverflow.2 hinf
    rw [min_eq_right hinf, IsRne]
    cases s with
    | true =>
      rw [F32.signFactor_true, if_neg (by linarith), if_pos (by linarith)]
      rfl
    | false =>
      rw [F32.signFactor_false, one_mul, if_pos hlarge]
      rfl
  · have hsmall : y < 2 ^ 128 - 2 ^ 103 := not_le.1 fun hle => hfin.not_ge (hoverflow.1 hle)
    have habs : |F32.signFactor s * y| = y := by
      rw [abs_mul, F32.abs_signFactor, one_mul, abs_of_nonneg hnonneg]
    rw [min_eq_left hfin.le, IsRne, if_neg, if_neg]
    · exact h.ofMagnitude_nearest hfin s _ (by rw [hy])
    · linarith [neg_le_abs (F32.signFactor s * y)]
    · linarith [le_abs_self (F32.signFactor s * y)]

/-! ## The classes exclude each other -/

section
variable {w : Word}

theorem F32.isNaN_of_isFinite (h : F32.isFinite w = true) : F32.isNaN w = false := by
  rw [F32.isFinite_eq, decide_eq_true_eq] at h
  rw [F32.isNaN_eq, decide_eq_false h.not_gt]

theorem F32.isInf_of_isFinite (h : F32.isFinite w = true) : F32.isInf w = false := by
  rw [F32.isFinite_eq, decide_eq_true_eq] at h
  rw [F32.isInf_eq, decide_eq_false h.ne]

theorem F32.isNaN_of_isInf (h : F32.isInf w = true) : F32.isNaN w = false := by
  rw [F32.isInf_eq, decide_eq_true_eq] at h
  rw [F32.isNaN_eq, decide_eq_false h.not_gt]

theorem F32.isZero_of_isInf (h : F32.isInf w = true) : F32.isZero w = false := by
  rw [F32.isInf_eq, decide_eq_true_eq] at h
  rw [F32.isZero_eq, h]
  rfl

theorem F32.isFinite_of_isZero (h : F32.isZero w = true) : F32.isFinite w = true := by
  rw [F32.isZero_eq, decide_eq_true_eq] at h
  rw [F32.isFinite_eq, h]
  rfl

end

theorem F32.isZero_eq_false_iff (w : Word) : F32.isZero w = false ↔ F32.toReal w ≠ 0 := by
  rw [F32.isZero_eq, decide_eq_false_iff_not, ne_eq, F32.toReal_eq_zero_iff]

theorem F32.isNaN_ofMagnitude (s : Bool) {n : Nat} (hn : n ≤ F32.infBits) : F32.isNaN (F32.ofMagnitude s n) = false := by
  rw [F32.isNaN_eq, F32.magnitude_ofMagnitude s (hn.trans_lt (by norm_num)), decide_eq_false hn.not_gt]

theorem F32.isNaN_canonicalNaN : F32.isNaN F32.canonicalNaN = true := by decide

theorem F32.eq_negZero {w : Word} (hs : F32.sign w = true) (h0 : F32.units w = 0) : w = 0x80000000#32 := by
  have h := F32.ofMagnitude_sign_magnitude w
  rw [hs, (F32.units_eq_zero_iff w).1 h0] at h
  exact h.symm

theorem F32.ofMagnitude_infBits (s : Bool) : F32.ofMagnitude s F32.infBits = Statements.signedInf s := by
  cases s <;> rfl

theorem F32.ofMagnitude_zero (s : Bool) : F32.ofMagnitude s 0 = Statements.signedZero s := by
  cases s <;> rfl

/-! ## The operations, case by case (R10) -/

section
variable {a b : Word}

theorem F32.fmul_of_isFinite (ha : F32.isFinite a = true) (hb : F32.isFinite b = true) :
    F32.fmul a b =
      F32.ofMagnitude (F32.sign a ^^ F32.sign b) (F32.roundUnits (F32.units a * F32.units b) (2 ^ 149)) := by
  simp [F32.fmul, F32.isNaN_of_isFinite, F32.isInf_of_isFinite, ha, hb]

/-- Of two operands without a NaN, one infinite: only a zero opposite the infinity has no product. -/
theorem F32.fmul_of_isInf (ha : F32.isNaN a = false) (hb : F32.isNaN b = false)
    (hinf : (F32.isInf a || F32.isInf b) = true) :
    F32.fmul a b =
      if (F32.isZero a || F32.isZero b) = true then F32.canonicalNaN
      else F32.ofMagnitude (F32.sign a ^^ F32.sign b) F32.infBits := by
  have hopposite : ((F32.isInf a && F32.isZero b) || (F32.isZero a && F32.isInf b)) = (F32.isZero a || F32.isZero b) := by
    rcases Bool.or_eq_true _ _ ▸ hinf with h | h
    · simp [h, F32.isZero_of_isInf h]
    · simp [h, F32.isZero_of_isInf h]
  simp only [F32.fmul, ha, hb, hopposite, hinf, Bool.or_false, Bool.false_eq_true, if_false, if_true]

theorem F32.fdiv_of_isFinite (ha : F32.isFinite a = true) (hb : F32.isFinite b = true) (h0 : F32.isZero b = false) :
    F32.fdiv a b =
      F32.ofMagnitude (F32.sign a ^^ F32.sign b) (F32.roundUnits (F32.units a * 2 ^ 149) (F32.units b)) := by
  simp [F32.fdiv, F32.isNaN_of_isFinite, F32.isInf_of_isFinite, ha, hb, h0]

theorem F32.fdiv_by_isZero (ha : F32.isFinite a = true) (hb : F32.isZero b = true) :
    F32.fdiv a b =
      if F32.isZero a = true then F32.canonicalNaN else F32.ofMagnitude (F32.sign a ^^ F32.sign b) F32.infBits := by
  have hb' := F32.isFinite_of_isZero hb
  simp [F32.fdiv, F32.isNaN_of_isFinite, F32.isInf_of_isFinite, ha, hb, hb']

theorem F32.fdiv_of_isInf (ha : F32.isInf a = true) (hb : F32.isNaN b = false) :
    F32.fdiv a b =
      if F32.isInf b = true then F32.canonicalNaN else F32.ofMagnitude (F32.sign a ^^ F32.sign b) F32.infBits := by
  simp [F32.fdiv, F32.isNaN_of_isInf, F32.isZero_of_isInf, ha, hb]

theorem F32.fdiv_by_isInf (ha : F32.isFinite a = true) (hb : F32.isInf b = true) :
    F32.fdiv a b = F32.ofMagnitude (F32.sign a ^^ F32.sign b) 0 := by
  simp [F32.fdiv, F32.isNaN_of_isFinite, F32.isInf_of_isFinite, F32.isNaN_of_isInf, F32.isZero_of_isInf, ha, hb]

theorem F32.fadd_of_isFinite (ha : F32.isFinite a = true) (hb : F32.isFinite b = true) :
    F32.fadd a b =
      if F32.signedUnits a + F32.signedUnits b = 0 then F32.ofMagnitude (F32.sign a && F32.sign b) 0
      else F32.ofMagnitude (decide (F32.signedUnits a + F32.signedUnits b < 0))
        (F32.roundUnits (F32.signedUnits a + F32.signedUnits b).natAbs 1) := by
  simp [F32.fadd, F32.isNaN_of_isFinite, F32.isInf_of_isFinite, ha, hb]

theorem F32.fadd_of_isInf_isInf (ha : F32.isInf a = true) (hb : F32.isInf b = true) :
    F32.fadd a b = if F32.sign a = F32.sign b then a else F32.canonicalNaN := by
  cases hsa : F32.sign a <;> cases hsb : F32.sign b <;> simp [F32.fadd, F32.isNaN_of_isInf, ha, hb, hsa, hsb]

theorem F32.fadd_of_isInf_isFinite (ha : F32.isInf a = true) (hb : F32.isFinite b = true) : F32.fadd a b = a := by
  simp [F32.fadd, F32.isNaN_of_isFinite, F32.isInf_of_isFinite, F32.isNaN_of_isInf, ha, hb]

theorem F32.fadd_of_isFinite_isInf (ha : F32.isFinite a = true) (hb : F32.isInf b = true) : F32.fadd a b = b := by
  simp [F32.fadd, F32.isNaN_of_isFinite, F32.isInf_of_isFinite, F32.isNaN_of_isInf, ha, hb]

end

/-! ## The rounded exact results -/

section
variable {a b : Word}

theorem F32.isRne_fmul (ha : F32.isFinite a = true) (hb : F32.isFinite b = true) :
    IsRne (F32.toReal a * F32.toReal b) (F32.fmul a b) := by
  have hexact : F32.toReal a * F32.toReal b =
      F32.signFactor (F32.sign a ^^ F32.sign b) *
        (((F32.units a * F32.units b : ℕ) / (2 ^ 149 : ℕ) : ℝ) / 2 ^ 149) := by
    rw [F32.toReal_eq, F32.toReal_eq, F32.signFactor_xor]
    push_cast
    ring
  rw [hexact, F32.fmul_of_isFinite ha hb]
  exact isRne_ofMagnitude_roundUnits _ _ (by positivity)

theorem F32.isRne_fdiv (ha : F32.isFinite a = true) (hb : F32.isFinite b = true) (h0 : F32.toReal b ≠ 0) :
    IsRne (F32.toReal a / F32.toReal b) (F32.fdiv a b) := by
  have hunits : F32.units b ≠ 0 := fun h => h0 ((F32.toReal_eq_zero_iff b).2 ((F32.units_eq_zero_iff b).1 h))
  have hunitsR : (F32.units b : ℝ) ≠ 0 := Nat.cast_ne_zero.2 hunits
  have hexact : F32.toReal a / F32.toReal b =
      F32.signFactor (F32.sign a ^^ F32.sign b) *
        (((F32.units a * 2 ^ 149 : ℕ) / (F32.units b : ℕ) : ℝ) / 2 ^ 149) := by
    rw [F32.toReal_eq, F32.toReal_eq, F32.signFactor_xor, div_eq_mul_inv, mul_inv, F32.signFactor_inv]
    push_cast
    field_simp
    ring
  rw [hexact, F32.fdiv_of_isFinite ha hb ((F32.isZero_eq_false_iff b).2 h0)]
  exact isRne_ofMagnitude_roundUnits _ _ (Nat.pos_of_ne_zero hunits)

theorem F32.toReal_add (a b : Word) :
    F32.toReal a + F32.toReal b = ((F32.signedUnits a + F32.signedUnits b : ℤ) : ℝ) / 2 ^ 149 := by
  rw [F32.toReal, F32.toReal, ← add_div]
  push_cast
  rfl

theorem F32.signFactor_mul_natAbs (n : ℤ) : F32.signFactor (decide (n < 0)) * (n.natAbs : ℝ) = n := by
  rw [Nat.cast_natAbs, Int.cast_abs]
  by_cases h : n < 0
  · rw [decide_eq_true h, F32.signFactor_true, abs_of_neg (Int.cast_lt_zero.2 h)]
    ring
  · rw [decide_eq_false h, F32.signFactor_false, one_mul, abs_of_nonneg (Int.cast_nonneg (not_lt.1 h))]

theorem F32.isRne_fadd (ha : F32.isFinite a = true) (hb : F32.isFinite b = true) :
    IsRne (F32.toReal a + F32.toReal b) (F32.fadd a b) := by
  rw [F32.toReal_add, F32.fadd_of_isFinite ha hb]
  generalize F32.signedUnits a + F32.signedUnits b = n
  split_ifs with hn
  · simpa [hn] using isRne_ofMagnitude_roundUnits (F32.sign a && F32.sign b) 0 Nat.one_pos
  · have h := isRne_ofMagnitude_roundUnits (decide (n < 0)) n.natAbs Nat.one_pos
    rwa [Nat.cast_one, div_one, ← mul_div_assoc, F32.signFactor_mul_natAbs] at h

/-- Negative words whose values add up to zero are both the zero -0. -/
theorem F32.fadd_of_sum_zero (ha : F32.isFinite a = true) (hb : F32.isFinite b = true)
    (hsum : F32.toReal a + F32.toReal b = 0) :
    F32.fadd a b = if a = 0x80000000#32 ∧ b = 0x80000000#32 then 0x80000000#32 else 0x00000000#32 := by
  have hunits : F32.signedUnits a + F32.signedUnits b = 0 := by
    rw [F32.toReal_add, div_eq_zero_iff, or_iff_left (by positivity)] at hsum
    exact_mod_cast hsum
  rw [F32.fadd_of_isFinite ha hb, if_pos hunits]
  by_cases hneg : F32.sign a = true ∧ F32.sign b = true
  · obtain ⟨hsa, hsb⟩ := hneg
    rw [F32.signedUnits, F32.signedUnits, if_pos hsa, if_pos hsb] at hunits
    rw [if_pos ⟨F32.eq_negZero hsa (by omega), F32.eq_negZero hsb (by omega)⟩, hsa, hsb]
    rfl
  · have hand : (F32.sign a && F32.sign b) = false := by simpa using hneg
    rw [hand, if_neg (fun ⟨ha, hb⟩ => hneg (by rw [ha, hb]; decide))]
    rfl

end

/-! ## Which results are a NaN -/

/-- Under `c` the word is the canonical NaN, and else it is no NaN. -/
def F32.NaNExactlyIf (c : Bool) (w : Word) : Prop :=
  if c = true then w = F32.canonicalNaN else F32.isNaN w = false

section
variable {c d : Bool} {w : Word}

theorem F32.NaNExactlyIf.isNaN_eq (h : F32.NaNExactlyIf c w) : F32.isNaN w = c := by
  cases c with
  | true => rw [show w = F32.canonicalNaN from h, F32.isNaN_canonicalNaN]
  | false => exact h

theorem F32.NaNExactlyIf.eq_canonicalNaN (h : F32.NaNExactlyIf c w) (hw : F32.isNaN w = true) : w = F32.canonicalNaN := by
  obtain rfl : c = true := h.isNaN_eq ▸ hw
  exact h

theorem F32.NaNExactlyIf.ite_or (h : F32.NaNExactlyIf d w) :
    F32.NaNExactlyIf (c || d) (if c = true then F32.canonicalNaN else w) := by
  cases c with
  | true => rfl
  | false => exact h

theorem F32.NaNExactlyIf.ite (h : F32.isNaN w = false) :
    F32.NaNExactlyIf c (if c = true then F32.canonicalNaN else w) := by
  cases c with
  | true => rfl
  | false => exact h

end

theorem F32.isNaN_ofMagnitude_roundUnits (s : Bool) (num den : Nat) :
    F32.isNaN (F32.ofMagnitude s (F32.roundUnits num den)) = false :=
  F32.isNaN_ofMagnitude s (F32.roundUnits_le num den)

section
variable (a b : Word)

theorem F32.fmul_nanExactlyIf :
    F32.NaNExactlyIf
      (F32.isNaN a || F32.isNaN b || ((F32.isInf a && F32.isZero b) || (F32.isZero a && F32.isInf b)))
      (F32.fmul a b) := by
  refine .ite_or (.ite ?_)
  split_ifs
  · exact F32.isNaN_ofMagnitude _ le_rfl
  · exact F32.isNaN_ofMagnitude_roundUnits ..

theorem F32.fdiv_nanExactlyIf :
    F32.NaNExactlyIf
      (F32.isNaN a || F32.isNaN b || ((F32.isInf a && F32.isInf b) || (F32.isZero a && F32.isZero b)))
      (F32.fdiv a b) := by
  refine .ite_or (.ite ?_)
  split_ifs
  · exact F32.isNaN_ofMagnitude _ le_rfl
  · exact F32.isNaN_ofMagnitude _ (Nat.zero_le _)
  · exact F32.isNaN_ofMagnitude_roundUnits ..

theorem F32.fadd_nanExactlyIf :
    F32.NaNExactlyIf
      (F32.isNaN a || F32.isNaN b || (F32.isInf a && F32.isInf b && (F32.sign a ^^ F32.sign b)))
      (F32.fadd a b) := by
  refine .ite_or (.ite ?_)
  split_ifs with ha hb
  · exact F32.isNaN_of_isInf ha
  · exact F32.isNaN_of_isInf hb
  · exact F32.isNaN_ofMagnitude _ (Nat.zero_le _)
  · exact F32.isNaN_ofMagnitude_roundUnits ..

end

end Sys2Proof.Machine
end

section
/-! SUPPORT. The proofs of the statements about binary32 arithmetic (spec/00_scope.md R10). -/

namespace Sys2Proof.Proofs

open Sys2Proof Sys2Proof.Machine Sys2Proof.Statements

/-- Settles O53: the exact product is a ratio of units, rounded once; infinities by the case lemma. -/
theorem fmulRoundsTheExactProduct : Obligations.FmulRoundsTheExactProduct := by
  intro a b
  refine ⟨fun ha hb => ⟨F32.isRne_fmul ha hb, fun _ => ?_⟩, fun ha hb hinf => ?_⟩
  · rw [F32.fmul_of_isFinite ha hb, F32.sign_ofMagnitude]
  · rw [F32.fmul_of_isInf ha hb hinf, F32.ofMagnitude_infBits]

/-- Settles O54: the exact quotient is a ratio of units, rounded once; zero divisors and infinities by the case lemmas. -/
theorem fdivRoundsTheExactQuotient : Obligations.FdivRoundsTheExactQuotient := by
  intro a b
  refine ⟨fun ha hb h0 => ⟨F32.isRne_fdiv ha hb h0, fun _ => ?_⟩, fun ha hb => ?_, fun ha hb => ?_, fun ha hb => ?_⟩
  · rw [F32.fdiv_of_isFinite ha hb ((F32.isZero_eq_false_iff b).2 h0), F32.sign_ofMagnitude]
  · rw [F32.fdiv_by_isZero ha hb, F32.ofMagnitude_infBits]
  · rw [F32.fdiv_of_isInf ha hb, F32.ofMagnitude_infBits]
  · rw [F32.fdiv_by_isInf ha hb, F32.ofMagnitude_zero]

/-- Settles O55: the exact sum is a whole number of units, rounded once; zero sums and infinities by the case lemmas. -/
theorem faddRoundsTheExactSum : Obligations.FaddRoundsTheExactSum := fun _ _ =>
  ⟨fun ha hb => ⟨F32.isRne_fadd ha hb, F32.fadd_of_sum_zero ha hb⟩, F32.fadd_of_isInf_isInf,
    F32.fadd_of_isInf_isFinite, F32.fadd_of_isFinite_isInf⟩

/-- Settles O56: each operation starts with its invalid cases, and what it gives past them is no NaN. -/
theorem everyNanResultIsCanonical : Obligations.EveryNanResultIsCanonical := by
  intro a b
  have hmul := F32.fmul_nanExactlyIf a b
  have hdiv := F32.fdiv_nanExactlyIf a b
  have hadd := F32.fadd_nanExactlyIf a b
  refine ⟨?_, ?_, ?_, hadd.isNaN_eq⟩
  · simp only [List.forall_mem_cons, List.not_mem_nil, IsEmpty.forall_iff, implies_true, and_true]
    exact ⟨hmul.eq_canonicalNaN, hdiv.eq_canonicalNaN, hadd.eq_canonicalNaN⟩
  · rw [hmul.isNaN_eq, Bool.or_assoc (F32.isNaN a || F32.isNaN b)]
  · rw [hdiv.isNaN_eq, Bool.or_assoc (F32.isNaN a || F32.isNaN b)]

end Sys2Proof.Proofs
end

section
/-! SUPPORT. The register window seen from a host's turn (spec/10_state.md, spec/20_memory.md R52): the step of a word read
and of a word write, the registers' words as numbers, and what a register write can do to `CMDCOUNT`. -/

namespace Sys2Proof.Machine

open Sys2Proof.Statements

/-! ## Word accesses -/

theorem wordRead_addr {a : Nat} (h : a < 0x1000) : (wordRead a).addr.toNat = a :=
  Nat.mod_eq_of_lt (by omega)

theorem wordWrite_addr {a : Nat} (v : Word) (h : a < 0x1000) : (wordWrite a v).addr.toNat = a :=
  Nat.mod_eq_of_lt (by omega)

/-- A write that is served is a word write of its offset (R56). -/
theorem Txn.eq_wordWrite {cap : Nat} {t : Txn} {r : Region} {v : Word} (h : Txn.target cap t = some r)
    (hv : t.access = .write v) : t = wordWrite t.addr.toNat v := by
  obtain ⟨hsize, -⟩ := Txn.target_some h
  obtain ⟨access, addr, size⟩ := t
  subst hsize hv
  simp [wordWrite]

/-! ## Which register an offset selects (R21, R36) -/

theorem regAt_eq_reserved {a : Nat}
    (h : a ∉ [0x000, 0x004, 0x008, 0x010, 0x014, 0x018, 0x01C, 0x020, 0x024, 0x028, 0x02C, 0x030, 0x034, 0x038]) :
    regAt a = .reserved := by
  unfold regAt
  split
  case h_15 => rfl
  all_goals exact absurd (by decide) h

theorem regAt_regOffset (r : Reg) : regAt (regOffset r) = r := by
  cases r <;> rfl

theorem regOffset_aligned (r : Reg) : regOffset r % 4 = 0 := by
  cases r <;> rfl

theorem regOffset_lt (r : Reg) : regOffset r < 0x1000 := by
  cases r <;> decide

theorem regAt_eq_ctrl {a : Nat} (h : regAt a = .ctrl) : a = 0x010 := by
  unfold regAt at h
  split at h
  case h_4 => rfl
  all_goals cases h

/-! ## A register write and the port -/

/-- A register write neither looks at the answers given so far nor changes them. -/
theorem regWrite_with_responses (cap : Nat) (s : State) (v : Word) (r : Reg) (rs : List Response) :
    regWrite cap { s with responses := rs } v r = { regWrite cap s v r with responses := rs } := by
  cases r with
  | ctrl => cases h : v.getLsbD 0 <;> simp only [regWrite, State.writeCtrl, h] <;> rfl
  | status => cases h : v.getLsbD 2 <;> simp only [regWrite, State.writeStatus, h] <;> rfl
  | cmd => cases h : s.inFlight <;> simp only [regWrite, State.writeCmd, State.busy, h] <;> rfl
  | _ => rfl

theorem regWrite_responses (cap : Nat) (s : State) (v : Word) (r : Reg) :
    (regWrite cap s v r).responses = s.responses :=
  congrArg (·.responses) (regWrite_with_responses cap s v r s.responses)

/-- The step of a host's word read in the register window (R52, R57). -/
theorem step_wordRead_register {s : State} {rest : List Txn} {a : Nat} (h : HostTurn s (wordRead a) rest)
    (ha : a % 4 = 0) (hw : a < 0x1000) :
    step s = .next (answered s rest (.data (regRead Config.sigCap s (regAt a)))) := by
  obtain ⟨hport, hturn⟩ := h
  have haddr := wordRead_addr hw
  have hstep := step_registerRead hport rfl (by rw [haddr, ha]) (by rw [haddr]; exact hw) rfl hturn
  rw [haddr] at hstep
  exact hstep

/-- The step of a host's word write in the register window: the register's write, and the answer OK (R52). -/
theorem step_wordWrite_register {s : State} {rest : List Txn} {a : Nat} {v : Word}
    (h : HostTurn s (wordWrite a v) rest) (ha : a % 4 = 0) (hw : a < 0x1000) :
    step s = .next (regWrite Config.sigCap (answered s rest .ok) v (regAt a)) := by
  obtain ⟨hport, hturn⟩ := h
  have haddr := wordWrite_addr v hw
  have hstep := step_registerWrite hport rfl (by rw [haddr, ha]) (by rw [haddr]; exact hw) rfl hturn
  rw [haddr] at hstep
  rw [hstep]
  dsimp only
  rw [regWrite_responses]
  exact congrArg _ (regWrite_with_responses ..).symm

/-- A read of a register answers its word and changes nothing else (R52, R57). -/
theorem step_readReg (r : Reg) {s : State} {rest : List Txn} (h : HostTurn s (wordRead (regOffset r)) rest) :
    step s = .next (answered s rest (.data (regRead Config.sigCap s r))) := by
  rw [step_wordRead_register h (regOffset_aligned r) (regOffset_lt r), regAt_regOffset]

/-- A write of a register does the register's write and is answered OK (R52). -/
theorem step_writeReg (r : Reg) {s : State} {rest : List Txn} {v : Word}
    (h : HostTurn s (wordWrite (regOffset r) v) rest) :
    step s = .next (regWrite Config.sigCap (answered s rest .ok) v r) := by
  rw [step_wordWrite_register h (regOffset_aligned r) (regOffset_lt r), regAt_regOffset]

/-- Two values that do the same to a register in every state make the same step. -/
theorem step_writeReg_congr (r : Reg) (s : State) {v w : Word}
    (h : ∀ u, regWrite Config.sigCap u v r = regWrite Config.sigCap u w r) (rest : List Txn) :
    step { s with port := wordWrite (regOffset r) v :: rest, turns := [.host] } =
      step { s with port := wordWrite (regOffset r) w :: rest, turns := [.host] } := by
  have hturn (x : Word) : HostTurn { s with port := wordWrite (regOffset r) x :: rest, turns := [.host] }
      (wordWrite (regOffset r) x) rest := ⟨rfl, .inl rfl⟩
  rw [step_writeReg r (hturn v), step_writeReg r (hturn w), h]
  rfl

/-! ## The registers' words (R25 to R35) -/

theorem State.ctrlWord_toNat (s : State) : s.ctrlWord.toNat = 2 * s.irqen.toNat := by
  unfold State.ctrlWord
  cases s.irqen <;> rfl

theorem State.statusWord_toNat (s : State) :
    s.statusWord.toNat = 8 * s.ovr.toNat + 4 * s.err.toNat + 2 * s.done.toNat + s.busy.toNat := by
  unfold State.statusWord
  cases s.ovr <;> cases s.err <;> cases s.done <;> cases s.busy <;> rfl

theorem regRead_errcode_toNat (cap : Nat) (s : State) : (regRead cap s .errcode).toNat = s.errcode.toNat :=
  BitVec.toNat_setWidth_of_le (by decide)

theorem regRead_hop_toNat (cap : Nat) (s : State) : (regRead cap s .hop).toNat = s.hop.toNat :=
  BitVec.toNat_setWidth_of_le (by decide)

theorem regRead_sigcap_toNat (s : State) : (regRead Config.sigCap s .sigcap).toNat = Config.sigCap :=
  Nat.mod_eq_of_lt (sigCap_le.trans_lt (by decide))

theorem regRead_nframes_toNat (cap : Nat) (s : State) :
    (regRead cap s .nframes).toNat = if s.hop = 0 then 0 else (s.len.toNat / s.hop.toNat + 1) % 2 ^ 32 := by
  have hzero : s.hop = 0 ↔ s.hop.toNat = 0 := by rw [← BitVec.toNat_inj]; rfl
  simp only [regRead, frameCount, BitVec.toNat_ofNat, hzero]
  split <;> rfl

/-! ## Writable and reserved bits -/

/-- A word below 2^k has no bit outside the lowest k. -/
theorem and_not_lowMask_eq_zero {w m : Word} {k : Nat} (h : w.toNat < 2 ^ k) (hm : m.toNat = 2 ^ k - 1) :
    w &&& ~~~m = 0#32 := by
  refine BitVec.eq_of_getLsbD_eq fun j hj => ?_
  by_cases hjk : j < k
  · have hmask : m.getLsbD j = true := by
      rw [BitVec.getLsbD, hm, Nat.testBit_two_pow_sub_one, decide_eq_true hjk]
    rw [BitVec.getLsbD_and, BitVec.getLsbD_not, hmask, Bool.not_true, Bool.and_false, Bool.and_false,
      BitVec.getLsbD_zero]
  · have hbit : w.getLsbD j = false :=
      Nat.testBit_lt_two_pow (h.trans_le (Nat.pow_le_pow_right two_pos (not_lt.mp hjk)))
    simp [hbit]

/-- Words that agree under a mask agree at its bits. -/
theorem getLsbD_eq_of_and_eq {v w m : Word} (h : v &&& m = w &&& m) {j : Nat} (hm : m.getLsbD j = true) :
    v.getLsbD j = w.getLsbD j := by
  simpa [hm] using congrArg (·.getLsbD j) h

/-- A write of `STATUS` in one update of its fields (R26). -/
theorem State.writeStatus_eq (s : State) (v : Word) :
    s.writeStatus v =
      { s with
        done := s.done && !v.getLsbD 1
        err := s.err && !v.getLsbD 2
        ovr := s.ovr && !v.getLsbD 3
        errcode := if v.getLsbD 2 then 0 else s.errcode
        errinfo := if v.getLsbD 2 then 0 else s.errinfo } := by
  cases h : v.getLsbD 2 <;>
    simp only [State.writeStatus, h, Bool.not_false, Bool.not_true, Bool.and_true, Bool.and_false] <;> rfl

theorem State.writeCtrl_of_clear {cap : Nat} (s : State) {v : Word} (h : v.getLsbD 0 = false) :
    s.writeCtrl cap v = s.writeIrqen v := by
  simp only [State.writeCtrl, h]; rfl

theorem State.writeCtrl_of_set {cap : Nat} (s : State) {v : Word} (h : v.getLsbD 0 = true) :
    s.writeCtrl cap v = s.softReset cap := by
  simp only [State.writeCtrl, h]; rfl

/-- `CTRL` has the writable bits 1 and 0 (R25). -/
theorem State.writeCtrl_congr {cap : Nat} (s : State) {v w : Word} (h : v &&& 0x00000003#32 = w &&& 0x00000003#32) :
    s.writeCtrl cap v = s.writeCtrl cap w := by
  simp only [State.writeCtrl, State.writeIrqen, getLsbD_eq_of_and_eq h (j := 0) rfl,
    getLsbD_eq_of_and_eq h (j := 1) rfl]

/-- `STATUS` has the writable bits 3, 2 and 1 (R26). -/
theorem State.writeStatus_congr (s : State) {v w : Word} (h : v &&& 0x0000000E#32 = w &&& 0x0000000E#32) :
    s.writeStatus v = s.writeStatus w := by
  simp only [State.writeStatus_eq, getLsbD_eq_of_and_eq h (j := 1) rfl, getLsbD_eq_of_and_eq h (j := 2) rfl,
    getLsbD_eq_of_and_eq h (j := 3) rfl]

/-- `HOP` has the writable bits 12 to 0 (R31). -/
theorem hopField_congr {v w : Word} (h : v &&& 0x00001FFF#32 = w &&& 0x00001FFF#32) :
    v.extractLsb' 0 13 = w.extractLsb' 0 13 := by
  have hmask : ∀ j < 13, (0x00001FFF#32).getLsbD j = true := by decide
  refine BitVec.eq_of_getLsbD_eq fun j hj => ?_
  simp [hj, getLsbD_eq_of_and_eq h (hmask j hj)]

/-! ## `CMDCOUNT` (R35) -/

/-- A register write leaves `CMDCOUNT`, or is the write of `CTRL` with bit 0 set and clears it (R35, R140). -/
theorem regWrite_cmdcount (cap : Nat) (s : State) (v : Word) (r : Reg) :
    (regWrite cap s v r).cmdcount = s.cmdcount ∨
    (r = .ctrl ∧ v.getLsbD 0 = true ∧ (regWrite cap s v r).cmdcount = 0) := by
  cases r with
  | ctrl =>
    cases h : v.getLsbD 0 with
    | false => exact .inl (congrArg (·.cmdcount) (s.writeCtrl_of_clear h))
    | true => exact .inr ⟨rfl, rfl, congrArg (·.cmdcount) (s.writeCtrl_of_set h)⟩
  | status => exact .inl (State.writeStatus_cmdcount s v)
  | cmd => exact .inl (by cases h : s.busy <;> simp [regWrite, State.writeCmd, h])
  | _ => exact .inl rfl

/-- The host's step leaves `CMDCOUNT`, or serves a soft reset and clears it. -/
theorem hostStep_cmdcount (cap : Nat) (s : State) :
    (hostStep cap s).cmdcount = s.cmdcount ∨
    ((hostStep cap s).cmdcount = 0 ∧ ∃ v : Word, v.getLsbD 0 = true ∧ HeadWrites s 0x010 v) := by
  cases hp : s.port with
  | nil => exact .inl (by simp [hostStep, hp])
  | cons t rest =>
    rw [hostStep_cons hp]
    rcases Txn.effect_cases cap t { s with port := rest } with he | ⟨v, hv, ht, he⟩ | ⟨v, r, -, -, -, he⟩
    · exact .inl (by rw [he])
    · rw [he]
      rcases regWrite_cmdcount cap { s with port := rest } v (regAt t.addr.toNat) with hc | ⟨hr, hbit, hc⟩
      · exact .inl hc
      · refine .inr ⟨hc, v, hbit, rest, ?_⟩
        rw [hp, Txn.eq_wordWrite ht hv, regAt_eq_ctrl hr]
    · exact .inl (by rw [he])

end Sys2Proof.Machine
end

section
/-! SUPPORT. The engine's step by the snapshot's validation alone (spec/40_command_common.md R78 to R81). -/

namespace Sys2Proof.Machine

theorem engineStep_idle {s : State} (h : s.inFlight = none) : engineStep s = .next s := by
  simp [engineStep, h]

/-- A word that fails validation, illegal words among them, completes with its error (R81). -/
theorem engineStep_error {s : State} {sn : Snapshot} {e : CmdError} (h : s.inFlight = some sn)
    (hv : validateWord Config.sigCap sn = some e) : engineStep s = .next (s.completeWithError e sn.cmd) := by
  unfold validateWord at hv
  cases hd : decode sn.cmd with
  | error d =>
    simp only [hd, Option.some.injEq] at hv
    simp [engineStep, h, hd, hv]
  | ok i =>
    simp only [hd] at hv
    simp [engineStep, h, hd, exec_eq_runCommand, runCommand_error h hv]

/-- A word that passes validation has its effect and completes (R80). -/
theorem engineStep_valid {s : State} {sn : Snapshot} (h : s.inFlight = some sn)
    (hv : validateWord Config.sigCap sn = none) :
    ∃ i, decode sn.cmd = .ok i ∧ engineStep s = .next (State.complete { s with mem := effect i sn s.mem }) := by
  unfold validateWord at hv
  cases hd : decode sn.cmd with
  | error d => simp [hd] at hv
  | ok i =>
    simp only [hd] at hv
    exact ⟨i, rfl, by simp [engineStep, h, hd, exec_eq_runCommand, runCommand_valid h hv]⟩

/-- Completion with an error neither looks at the memory nor changes it (R81). -/
theorem State.completeWithError_with_mem (s : State) (e : CmdError) (word : Word) (m : Memory) :
    State.completeWithError { s with mem := m } e word = { s.completeWithError e word with mem := m } := by
  cases h : s.err <;> simp [State.completeWithError, State.recordError, State.complete, h]

/-- The engine's step leaves the idle block as it is, and otherwise completes the command in flight (R80, R81). -/
theorem engineStep_completes {s t : State} (h : engineStep s = .next t) :
    (s.inFlight = none ∧ t = s) ∨
    (s.busy = true ∧ t.busy = false ∧ t.done = true ∧ t.port = s.port ∧ t.cmdcount = s.cmdcount + 1) := by
  cases hf : s.inFlight with
  | none =>
    rw [engineStep_idle hf] at h
    cases h
    exact .inl ⟨rfl, rfl⟩
  | some sn =>
    have hb : s.busy = true := s.busy_iff.mpr ⟨sn, hf⟩
    cases hv : validateWord Config.sigCap sn with
    | some e =>
      rw [engineStep_error hf hv] at h
      cases h
      exact .inr ⟨hb, by simp⟩
    | none =>
      obtain ⟨i, -, he⟩ := engineStep_valid hf hv
      rw [he] at h
      cases h
      exact .inr ⟨hb, by simp⟩

end Sys2Proof.Machine
end

section
/-! SUPPORT. The proofs of the statements about the registers (spec/10_state.md). -/

namespace Sys2Proof.Proofs

open Sys2Proof Sys2Proof.Machine Sys2Proof.Statements

/-- Settles O34: an offset outside the table selects the reserved register, a word below 2^k has no higher bit, and each
register's write looks at its writable bits only. -/
theorem reservedOffsetsAndFieldsReadZero : Obligations.ReservedOffsetsAndFieldsReadZero := by
  refine ⟨fun s rest a ha hw hres => ⟨fun ht => ?_, fun v ht => ?_⟩, fun s => ?_, fun s => ?_⟩
  · rw [step_wordRead_register ht ha hw, regAt_eq_reserved hres]; rfl
  · rw [step_wordWrite_register ht ha hw, regAt_eq_reserved hres]; rfl
  · have hctrl : s.ctrlWord.toNat < 2 ^ 2 := by
      have := s.irqen.toNat_le
      rw [s.ctrlWord_toNat]; omega
    have hstatus : s.statusWord.toNat < 2 ^ 4 := by
      have := s.ovr.toNat_le
      have := s.err.toNat_le
      have := s.done.toNat_le
      have := s.busy.toNat_le
      rw [s.statusWord_toNat]; omega
    have herrcode : (regRead Config.sigCap s .errcode).toNat < 2 ^ 8 := by
      rw [regRead_errcode_toNat]; exact s.errcode.isLt
    have hhop : (regRead Config.sigCap s .hop).toNat < 2 ^ 13 := by
      rw [regRead_hop_toNat]; exact s.hop.isLt
    simp only [List.forall_mem_cons, List.not_mem_nil, IsEmpty.forall_iff, implies_true, and_true]
    exact ⟨⟨_, and_not_lowMask_eq_zero hctrl rfl, fun _ => step_readReg .ctrl⟩,
      ⟨_, and_not_lowMask_eq_zero hstatus rfl, fun _ => step_readReg .status⟩,
      ⟨_, and_not_lowMask_eq_zero herrcode rfl, fun _ => step_readReg .errcode⟩,
      ⟨_, and_not_lowMask_eq_zero hhop rfl, fun _ => step_readReg .hop⟩⟩
  · simp only [List.forall_mem_cons, List.not_mem_nil, IsEmpty.forall_iff, implies_true, and_true]
    exact ⟨fun _ _ h => step_writeReg_congr .ctrl s fun u => u.writeCtrl_congr h,
      fun _ _ h => step_writeReg_congr .status s fun u => u.writeStatus_congr h,
      fun _ _ _ => step_writeReg_congr .errcode s fun _ => rfl,
      fun _ _ h => step_writeReg_congr .hop s fun u =>
        congrArg (fun x => { u with hop := x }) (hopField_congr h)⟩

/-- Settles O48: a turn used up counts nothing, the engine's step is a completion, and of the host's steps only a soft
reset touches the count. -/
theorem onlyCompletionsCount : Obligations.OnlyCompletionsCount := by
  intro s t h
  rcases step_cases s with ⟨-, hs⟩ | ⟨-, hs⟩ | ⟨-, hs⟩ <;> rw [hs] at h
  · cases h
    exact .inl rfl
  · rcases engineStep_completes h with ⟨-, rfl⟩ | hdone
    · exact .inl rfl
    · exact .inr (.inl hdone)
  · cases h
    rcases hostStep_cmdcount Config.sigCap s.afterTurn with hc | hreset
    · exact .inl hc
    · exact .inr (.inr hreset)

/-- Settles O51: validation sees the snapshot alone, so both steps take the same branch, and in each branch the registers
are set without the memory. -/
theorem registersNeverDependOnData : Obligations.RegistersNeverDependOnData := by
  intro s t m h
  obtain hf | ⟨sn, hf⟩ := Option.eq_none_or_eq_some s.inFlight
  · rw [engineStep_idle hf] at h
    cases h
    exact ⟨m, engineStep_idle hf⟩
  have hf' : State.inFlight { s with mem := m } = some sn := hf
  obtain hv | ⟨e, hv⟩ := Option.eq_none_or_eq_some (validateWord Config.sigCap sn)
  · obtain ⟨_, -, hs⟩ := engineStep_valid hf hv
    obtain ⟨i, -, hs'⟩ := engineStep_valid hf' hv
    rw [hs] at h
    cases h
    exact ⟨effect i sn m, hs'⟩
  · rw [engineStep_error hf hv] at h
    cases h
    exact ⟨m, by rw [engineStep_error hf' hv, State.completeWithError_with_mem]⟩

/-- Settles O30: three registers whose read is a constant and whose write does nothing. -/
theorem constantRegistersReadTheirConstants : Obligations.ConstantRegistersReadTheirConstants := by
  intro s rest v
  refine ⟨step_readReg .id, step_readReg .version,
    fun ht => ⟨_, regRead_sigcap_toNat s, step_readReg .sigcap ht⟩, ?_⟩
  simp only [List.forall_mem_cons, List.not_mem_nil, IsEmpty.forall_iff, implies_true, and_true]
  exact ⟨step_writeReg .id, step_writeReg .version, step_writeReg .sigcap⟩

/-- Settles O31: each register's write sets its own field, or does nothing to a read-only register. -/
theorem configurationWritesKeepTheSnapshot : Obligations.ConfigurationWritesKeepTheSnapshot := by
  intro s rest v
  refine ⟨step_writeReg .len, fun ht => ⟨v.extractLsb' 0 13, ?_, step_writeReg .hop ht⟩, step_writeReg .norm,
    step_writeReg .framebase, ?_⟩
  · simp
  · simp only [List.forall_mem_cons, List.not_mem_nil, IsEmpty.forall_iff, implies_true, and_true]
    exact ⟨step_writeReg .errcode, step_writeReg .errinfo, step_writeReg .cmdcount⟩

/-- Settles O32: each listed number is the word of the register at its offset. -/
theorem registerReadsReturnTheState : Obligations.RegisterReadsReturnTheState := by
  intro s rest a w ht hmem
  obtain ⟨r, rfl, hval⟩ : ∃ r, a = regOffset r ∧ w.toNat = (regRead Config.sigCap s r).toNat := by
    simp only [List.mem_cons, Prod.mk.injEq, List.not_mem_nil, or_false] at hmem
    rcases hmem with ⟨ha, hw⟩ | ⟨ha, hw⟩ | ⟨ha, hw⟩ | ⟨ha, hw⟩ | ⟨ha, hw⟩ | ⟨ha, hw⟩ | ⟨ha, hw⟩ | ⟨ha, hw⟩ | ⟨ha, hw⟩ |
      ⟨ha, hw⟩
    · exact ⟨.ctrl, ha, hw.trans s.ctrlWord_toNat.symm⟩
    · exact ⟨.status, ha, hw.trans s.statusWord_toNat.symm⟩
    · exact ⟨.errcode, ha, hw.trans (regRead_errcode_toNat _ s).symm⟩
    · exact ⟨.errinfo, ha, hw⟩
    · exact ⟨.cmd, ha, hw⟩
    · exact ⟨.len, ha, hw⟩
    · exact ⟨.hop, ha, hw.trans (regRead_hop_toNat _ s).symm⟩
    · exact ⟨.norm, ha, hw⟩
    · exact ⟨.framebase, ha, hw⟩
    · exact ⟨.cmdcount, ha, hw⟩
  rw [step_readReg r ht, BitVec.eq_of_toNat_eq hval]

/-- Settles O33: the word read is the frame count of the live registers, at reset 0 / 1024 + 1. -/
theorem nframesCountsTheLiveFrames : Obligations.NframesCountsTheLiveFrames :=
  ⟨fun s _ ht => ⟨_, step_readReg .nframes ht, regRead_nframes_toNat _ s⟩,
    fun _ _ _ => step_writeReg .nframes,
    step_readReg .nframes (s := { State.reset with port := [wordRead 0x034] }) (rest := []) ⟨rfl, .inr rfl⟩⟩

/-- Settles O35: `STATUS` by its write as one update, `CTRL` by its write with bit 0 clear. -/
theorem statusAndControlWritesActOnTheirFields : Obligations.StatusAndControlWritesActOnTheirFields := by
  intro s rest v
  refine ⟨fun ht => ?_, fun ht h0 => ?_⟩
  · rw [step_writeReg .status ht]
    exact congrArg _ (State.writeStatus_eq ..)
  · rw [step_writeReg .ctrl ht]
    exact congrArg _ (State.writeCtrl_of_clear _ h0)

end Sys2Proof.Proofs
end

section
/-! SUPPORT. The memory window seen from a host's turn (spec/20_memory.md R50 to R58): the addresses of the populated
words, the transactions that reach them, the bytes a word write changes, and the step of a word read and a word write. -/

namespace Sys2Proof.Machine

open Sys2Proof.Statements

/-! ## Addresses of the populated words (R51) -/

@[simp] theorem wordIndex_wordAddr (r : Region) (i : Nat) : r.wordIndex (r.wordAddr i) = i := by
  unfold Region.wordIndex Region.wordAddr
  omega

/-- The populated words of a region end where the next region starts, or before it. -/
theorem Region.wordAddr_words_le_stop {cap : Nat} (hcap : cap ≤ 2 ^ 26) (r : Region) :
    r.wordAddr (r.words cap) ≤ r.stop := by
  unfold Region.wordAddr
  cases r with
  | spec c | sig c | ola c =>
    cases c <;> dsimp only [Region.start, Region.stop, Region.words_spec, Region.words_sig, Region.words_ola] <;> omega
  | _ =>
    dsimp only [Region.start, Region.stop, Region.words_registers, Region.words_win, Region.words_ten, Region.words_out]
    omega

theorem Region.stop_le (r : Region) : r.stop ≤ 0x70000000 := by
  cases r with
  | spec c | sig c | ola c => cases c <;> decide
  | _ => decide

theorem wordAddr_lt_stop {r : Region} {i : Nat} (h : i < r.words Config.sigCap) : r.wordAddr i < r.stop := by
  have := r.wordAddr_words_le_stop sigCap_le
  unfold Region.wordAddr at *
  omega

/-- A populated word's address belongs to its region. -/
theorem regionOf_wordAddr {r : Region} {i : Nat} (h : i < r.words Config.sigCap) :
    regionOf Config.sigCap (r.wordAddr i) = some r :=
  (regionOf_eq_some_iff _ _ _).mpr ⟨Nat.le_add_right _ _, wordAddr_lt_stop h, by rwa [wordIndex_wordAddr]⟩

theorem wordAddr_aligned (r : Region) (i : Nat) : r.wordAddr i % 4 = 0 := by
  have hstart : r.start % 4 = 0 := by
    cases r with
    | spec c | sig c | ola c => cases c <;> rfl
    | _ => rfl
  unfold Region.wordAddr
  omega

/-- The address of a populated word fits the 31 bits the port carries. -/
theorem ofNat_wordAddr_toNat {r : Region} {i : Nat} (h : i < r.words Config.sigCap) :
    (BitVec.ofNat 31 (r.wordAddr i)).toNat = r.wordAddr i := by
  have := wordAddr_lt_stop h
  have := r.stop_le
  exact Nat.mod_eq_of_lt (by omega)

/-- The table of R51 written out maps the offsets that a region holds, and no others. -/
theorem mapped_iff_regionOf (a : Nat) : Mapped a ↔ ∃ r, regionOf Config.sigCap a = some r := by
  have hcap := sigCap_le
  unfold Mapped
  -- as a variable, so that comparing two bounds never counts through the numerals of the capacity
  generalize Config.sigCap = cap at *
  simp only [regionOf_eq_some_iff_offsets]
  constructor
  · rintro (h | ⟨hlow, hhigh⟩ | ⟨hlow, hhigh⟩ | ⟨hlow, hhigh⟩ | ⟨hlow, hhigh⟩ | ⟨hlow, hhigh⟩ | ⟨hlow, hhigh⟩ |
      ⟨hlow, hhigh⟩)
    · exact ⟨.registers, Nat.zero_le _, h, by dsimp only [Region.start, Region.words_registers]; omega⟩
    · exact ⟨.win, hlow, hhigh, by dsimp only [Region.start, Region.words_win]; omega⟩
    · rcases Nat.lt_or_ge a 0x01000000 with hten | hspec
      · exact ⟨.ten, hlow, hten, by dsimp only [Region.start, Region.words_ten]; omega⟩
      · rcases Nat.lt_or_ge a 0x01800000 with hleft | hright
        · exact ⟨.spec .left, hspec, hleft, by dsimp only [Region.start, Region.words_spec]; omega⟩
        · exact ⟨.spec .right, hright, hhigh, by dsimp only [Region.start, Region.words_spec]; omega⟩
    · exact ⟨.sig .left, hlow, by dsimp only [Region.stop]; omega, hhigh⟩
    · exact ⟨.sig .right, hlow, by dsimp only [Region.stop]; omega, hhigh⟩
    · exact ⟨.ola .left, hlow, by dsimp only [Region.stop]; omega, hhigh⟩
    · exact ⟨.ola .right, hlow, by dsimp only [Region.stop]; omega, hhigh⟩
    · exact ⟨.out, hlow, by dsimp only [Region.stop]; omega, by rw [Region.words_out]; exact hhigh⟩
  · rintro ⟨r, hstart, hstop, hwords⟩
    cases r with
    | spec c | sig c | ola c =>
      cases c <;> dsimp only [Region.start, Region.stop, Region.words_spec, Region.words_sig, Region.words_ola]
        at hstart hstop hwords <;> omega
    | out =>
      rw [Region.words_out] at hwords
      dsimp only [Region.start, Region.stop] at hstart hstop hwords
      omega
    | _ =>
      dsimp only [Region.start, Region.stop, Region.words_registers, Region.words_win, Region.words_ten]
        at hstart hstop hwords
      omega

/-- The window table (R51). -/
theorem regionOf_win {cap a : Nat} (hstart : 0x10000 ≤ a) (hstop : a < 0x14000) : regionOf cap a = some .win := by
  rw [regionOf_eq_some_iff_offsets]
  dsimp only [Region.start, Region.stop, Region.words_win]
  omega

/-! ## Absolute addresses (R50) -/

/-- What issuing a transaction does, by where its address falls (R50). `State.issue` is unfolded as a function: unfolded at
an address, its match would have the kernel evaluate `busOffset` there, which counts through the numeral of BASE. -/
theorem State.issue_eq_elim (s : State) (access : Access) (a size : Nat) :
    s.issue access a size =
      (busOffset a).elim s fun offset => { s with port := s.port ++ [⟨access, offset, size⟩] } := by
  generalize hf : State.issue = f
  delta State.issue at hf
  subst hf
  beta_reduce
  cases busOffset a <;> rfl

/-- An absolute address of the window falls at its offset from BASE (R50). -/
theorem busOffset_inside {k : Nat} (h : k < 2 ^ 31) : busOffset (Config.base + k) = some (BitVec.ofNat 31 k) := by
  have hin : Config.base ≤ Config.base + k ∧ Config.base + k < Config.base + 2 ^ 31 :=
    ⟨Nat.le_add_right _ _, Nat.add_lt_add_left h _⟩
  rw [busOffset, if_pos hin, Nat.add_sub_cancel_left]

/-- Any other absolute address does not reach the block (R50). -/
theorem busOffset_outside {a : Nat} (h : a < Config.base ∨ Config.base + 2 ^ 31 ≤ a) : busOffset a = none := by
  refine if_neg fun ⟨hlow, hhigh⟩ => ?_
  rcases h with h | h
  · exact absurd h (not_lt.mpr hlow)
  · exact absurd hhigh (not_lt.mpr h)

/-! ## Which region a transaction is served from (R53, R125) -/

/-- The served transactions: `Txn.target_some` and its converse. -/
theorem Txn.target_eq_some_iff {cap : Nat} {t : Txn} {r : Region} :
    Txn.target cap t = some r ↔
      t.size = 4 ∧ t.addr.toNat % 4 = 0 ∧ regionOf cap t.addr.toNat = some r ∧ ∀ v, t.access = .write v → r ≠ .win := by
  refine ⟨Txn.target_some, fun ⟨hsize, halign, hregion, hwin⟩ => ?_⟩
  unfold Txn.target
  rw [if_neg (by simp [hsize, halign]), hregion]
  split
  · next v hr hv => exact absurd (Option.some.inj hr) (hwin v hv)
  · rfl

/-- The transactions served from no region are the bus errors of R125. -/
theorem Txn.target_eq_none_iff (t : Txn) : Txn.target Config.sigCap t = none ↔ GetsBusError t := by
  rw [← not_iff_not, ← ne_eq, Option.ne_none_iff_exists']
  simp only [Txn.target_eq_some_iff, GetsBusError, not_or, not_not, mapped_iff_regionOf]
  constructor
  · rintro ⟨r, hsize, halign, hregion, hwin⟩
    refine ⟨hsize, halign, ⟨r, hregion⟩, fun ⟨hstart, hstop, hwrite⟩ => ?_⟩
    have hr : r = .win := Option.some.inj (hregion.symm.trans (regionOf_win hstart hstop))
    cases hacc : t.access with
    | read => exact hwrite hacc
    | write v => exact hwin v hacc hr
  · rintro ⟨hsize, halign, ⟨r, hregion⟩, hwin⟩
    refine ⟨r, hsize, halign, hregion, ?_⟩
    rintro v hv rfl
    obtain ⟨hstart, hstop, -⟩ := regionOf_some hregion
    exact hwin ⟨hstart, hstop, by simp [hv]⟩

/-- A transaction served from any region but the registers waits exactly while a command runs (R58). -/
theorem Txn.waits_eq_busy {cap : Nat} {t : Txn} {r : Region} (ht : Txn.target cap t = some r) (hr : r ≠ .registers)
    (s : State) : Txn.waits cap t s = s.busy := by
  unfold Txn.waits
  rw [ht]
  cases r with
  | registers => exact absurd rfl hr
  | _ => rfl

/-- A word access to a populated word is served from the word's region, unless it writes `WIN`. -/
theorem target_wordAddr {access : Access} {r : Region} {i : Nat} (h : i < r.words Config.sigCap)
    (hwin : ∀ v, access = .write v → r ≠ .win) :
    Txn.target Config.sigCap ⟨access, BitVec.ofNat 31 (r.wordAddr i), 4⟩ = some r := by
  refine Txn.target_eq_some_iff.mpr ⟨rfl, ?_, ?_, hwin⟩
  · rw [ofNat_wordAddr_toNat h, wordAddr_aligned]
  · rw [ofNat_wordAddr_toNat h, regionOf_wordAddr h]

theorem target_wordRead {r : Region} {i : Nat} (h : i < r.words Config.sigCap) :
    Txn.target Config.sigCap (wordRead (r.wordAddr i)) = some r :=
  target_wordAddr h fun _ hv => nomatch hv

theorem target_wordWrite {r : Region} {i : Nat} (h : i < r.words Config.sigCap) (hr : r ≠ .win) (v : Word) :
    Txn.target Config.sigCap (wordWrite (r.wordAddr i) v) = some r :=
  target_wordAddr h fun _ _ => hr

theorem Region.ne_registers_of_isMemory {r : Region} (h : r.isMemory = true) : r ≠ .registers := by
  rintro rfl
  cases h

theorem Region.ne_win_of_isMemory {r : Region} (h : r.isMemory = true) : r ≠ .win := by
  rintro rfl
  cases h

/-! ## What a served access reads and writes (R53) -/

theorem readTarget_memory (cap : Nat) (s : State) (a : Nat) {r : Region} (h : r.isMemory = true) :
    readTarget cap s a r = s.mem.get r (r.wordIndex a) := by
  cases r with
  | registers | win => cases h
  | _ => rfl

theorem writeTarget_memory (cap : Nat) (s : State) (a : Nat) (v : Word) {r : Region} (h : r.isMemory = true) :
    writeTarget cap s a v r = { s with mem := s.mem.set r (r.wordIndex a) v } := by
  cases r with
  | registers | win => cases h
  | _ => rfl

/-- The written word's bytes are its byte lanes (R55). -/
theorem Memory.byte_set_self (m : Memory) (r : Region) (i : Nat) (v : Word) {k : Nat} (hk : k < 4) :
    (m.set r i v).byte (r.wordAddr i + k) = byteLane v k := by
  unfold Memory.set Memory.writeWord Memory.writeWords
  rw [Memory.byte_writeBytes, if_pos (by omega), Nat.add_sub_cancel_left, Nat.mod_eq_of_lt hk]

/-- The bytes outside the written word are kept. -/
theorem Memory.byte_set_outside (m : Memory) (r : Region) (i : Nat) (v : Word) {a : Nat} (h : Outside r i 1 a) :
    (m.set r i v).byte a = m.byte a :=
  Memory.byte_setRange_outside m r i 1 a (fun _ => v) h

/-! ## The step of a word access of the idle block (R53, R57) -/

/-- The idle block serves the oldest transaction of the port, whatever it is. -/
theorem step_idle_cons {s : State} {t : Txn} {rest : List Txn} (hp : s.port = t :: rest) (hidle : s.inFlight = none) :
    step s = .next (hostStep Config.sigCap s.afterTurn) := by
  refine step_host hp ?_ (.inr hidle)
  have hb : s.busy = false := by simp [State.busy, hidle]
  unfold Txn.waits
  split <;> simp [hb]

/-- A word read of a populated word is answered with what its region reads there, and changes nothing. -/
theorem step_wordRead {s : State} {r : Region} {i : Nat} {rest : List Txn} (hidle : s.inFlight = none)
    (hi : i < r.words Config.sigCap) (hp : s.port = wordRead (r.wordAddr i) :: rest) :
    step s = .next (answered s rest (.data (readTarget Config.sigCap s.afterTurn (r.wordAddr i) r))) := by
  have haddr : (wordRead (r.wordAddr i)).addr.toNat = r.wordAddr i := ofNat_wordAddr_toNat hi
  rw [step_idle_cons hp hidle, hostStep_cons (s := s.afterTurn) hp]
  simp only [Txn.effect, Txn.response, target_wordRead hi, haddr]
  rfl

/-- A word read of a memory word is answered with the word. -/
theorem step_wordRead_memory {s : State} {r : Region} {i : Nat} {rest : List Txn} (hidle : s.inFlight = none)
    (hr : r.isMemory = true) (hi : i < r.words Config.sigCap) (hp : s.port = wordRead (r.wordAddr i) :: rest) :
    step s = .next (answered s rest (.data (s.mem.get r i))) := by
  rw [step_wordRead hidle hi hp, readTarget_memory _ _ _ hr, wordIndex_wordAddr, State.afterTurn_mem]

/-- A word write of a memory word sets the word, and is answered OK. -/
theorem step_wordWrite_memory {s : State} {r : Region} {i : Nat} {v : Word} {rest : List Txn} (hidle : s.inFlight = none)
    (hr : r.isMemory = true) (hi : i < r.words Config.sigCap) (hp : s.port = wordWrite (r.wordAddr i) v :: rest) :
    step s = .next { answered s rest .ok with mem := s.mem.set r i v } := by
  have haddr : (wordWrite (r.wordAddr i) v).addr.toNat = r.wordAddr i := ofNat_wordAddr_toNat hi
  rw [step_idle_cons hp hidle, hostStep_cons (s := s.afterTurn) hp]
  simp only [Txn.effect, Txn.response, target_wordWrite hi (Region.ne_win_of_isMemory hr), haddr,
    show (wordWrite (r.wordAddr i) v).access = .write v from rfl, writeTarget_memory _ _ _ _ hr, wordIndex_wordAddr]
  rfl

end Sys2Proof.Machine
end

section
/-! SUPPORT. What an agent's step does to the port and to the memory (spec/20_memory.md R50, R58, R59). -/

namespace Sys2Proof.Machine

open Sys2Proof.Statements

/-! ## The port and its answers -/

theorem regWrite_port (cap : Nat) (s : State) (v : Word) (r : Reg) : (regWrite cap s v r).port = s.port := by
  cases r with
  | ctrl =>
    cases h : v.getLsbD 0 with
    | false => exact congrArg (·.port) (s.writeCtrl_of_clear h)
    | true => exact congrArg (·.port) (s.writeCtrl_of_set h)
  | status => exact State.writeStatus_port s v
  | cmd => cases h : s.busy <;> simp [regWrite, State.writeCmd, h]
  | _ => rfl

/-- Serving a transaction touches neither the port nor the answers: both are the host's step's to move. -/
theorem Txn.effect_port_responses (cap : Nat) (t : Txn) (s : State) :
    (Txn.effect cap t s).port = s.port ∧ (Txn.effect cap t s).responses = s.responses := by
  rcases Txn.effect_cases cap t s with he | ⟨v, -, -, he⟩ | ⟨v, r, -, -, -, he⟩ <;> rw [he]
  · exact ⟨rfl, rfl⟩
  · exact ⟨regWrite_port .., regWrite_responses ..⟩
  · exact ⟨rfl, rfl⟩

/-- The host's step finds the port empty and does nothing, or answers its oldest transaction. -/
theorem hostStep_port_responses (cap : Nat) (s : State) :
    hostStep cap s = s ∨
    ∃ x r, s.port = x :: (hostStep cap s).port ∧ (hostStep cap s).responses = r :: s.responses := by
  cases hp : s.port with
  | nil => exact .inl (by simp [hostStep, hp])
  | cons t rest =>
    obtain ⟨hport, hresponses⟩ := Txn.effect_port_responses cap t { s with port := rest }
    rw [hostStep_cons hp]
    exact .inr ⟨t, Txn.response cap t s, by simp [hport], by simp [hresponses]⟩

/-- The engine's step on a command in flight answers a next state, with the command ended and the port as it was. -/
theorem engineStep_ends {s : State} {sn : Snapshot} (h : s.inFlight = some sn) :
    ∃ t, engineStep s = .next t ∧ t.port = s.port ∧ t.responses = s.responses ∧ t.inFlight = none := by
  cases hv : validateWord Config.sigCap sn with
  | some e => exact ⟨_, engineStep_error h hv, by simp⟩
  | none =>
    obtain ⟨i, -, he⟩ := engineStep_valid h hv
    exact ⟨_, he, by simp⟩

theorem engineStep_port_responses {s t : State} (h : engineStep s = .next t) :
    t.port = s.port ∧ t.responses = s.responses := by
  cases hf : s.inFlight with
  | none =>
    rw [engineStep_idle hf] at h
    cases h
    exact ⟨rfl, rfl⟩
  | some sn =>
    obtain ⟨u, hu, hport, hresponses, -⟩ := engineStep_ends hf
    rw [hu] at h
    cases h
    exact ⟨hport, hresponses⟩

/-! ## The hold of a memory access (R58) -/

/-- While the oldest transaction waits, the engine moves whoever's turn it is. -/
theorem step_of_waits {s : State} {t : Txn} {rest : List Txn} (hp : s.port = t :: rest) (hb : s.busy = true)
    (hw : Txn.waits Config.sigCap t s = true) : step s = engineStep s.afterTurn := by
  have hdisabled : hostEnabled Config.sigCap s = false := by simp [hostEnabled, hp, hw]
  have hnext : nextAgent Config.sigCap s = some .engine := by
    unfold nextAgent
    cases preferredAgent s <;> simp [hb, hdisabled]
  unfold step
  rw [hnext]

/-- The host moves only when its step is enabled (R75). -/
theorem hostEnabled_of_nextAgent {cap : Nat} {s : State} (h : nextAgent cap s = some .host) :
    hostEnabled cap s = true := by
  by_contra hdisabled
  cases hp : preferredAgent s <;> simp [nextAgent, hp, hdisabled] at h

/-! ## The memory (R59) -/

/-- A register write leaves the memory, or is a soft reset that ends the command in flight (R140). -/
theorem regWrite_mem (cap : Nat) (s : State) (v : Word) (r : Reg) :
    (regWrite cap s v r).mem = s.mem ∨ (s.busy = true ∧ (regWrite cap s v r).busy = false) := by
  cases r with
  | ctrl =>
    cases h : v.getLsbD 0 with
    | false => exact .inl (congrArg (·.mem) (s.writeCtrl_of_clear h))
    | true =>
      have hreset : regWrite cap s v .ctrl = s.softReset cap := s.writeCtrl_of_set h
      rw [hreset]
      cases hf : s.inFlight with
      | none => exact .inl (by simp [State.memAfterAbort, hf])
      | some sn => exact .inr ⟨s.busy_iff.mpr ⟨sn, hf⟩, rfl⟩
  | status => exact .inl (State.writeStatus_mem s v)
  | cmd => exact .inl (by cases h : s.busy <;> simp [regWrite, State.writeCmd, h])
  | _ => exact .inl rfl

/-- An enabled host's step leaves the memory, ends the command in flight by a soft reset, or writes one memory word of the
idle block. -/
theorem hostStep_mem {s : State} (h : hostEnabled Config.sigCap s = true) :
    (hostStep Config.sigCap s).mem = s.mem ∨
    (s.busy = true ∧ (hostStep Config.sigCap s).busy = false) ∨
    (s.busy = false ∧ ∃ r i v, r.isMemory = true ∧ i < r.words Config.sigCap ∧
      HeadWrites s (r.wordAddr i) v ∧ (hostStep Config.sigCap s).mem = s.mem.set r i v) := by
  cases hp : s.port with
  | nil => simp [hostEnabled, hp] at h
  | cons t rest =>
    rw [hostStep_cons hp]
    rcases Txn.effect_cases Config.sigCap t { s with port := rest } with he | ⟨v, -, -, he⟩ | ⟨v, r, hv, ht, hr, he⟩
    · exact .inl (by rw [he])
    · rw [he]
      rcases regWrite_mem Config.sigCap { s with port := rest } v (regAt t.addr.toNat) with hm | hends
      · exact .inl hm
      · exact .inr (.inl hends)
    · obtain ⟨-, halign, hregion, -⟩ := Txn.target_some ht
      obtain ⟨hstart, -, hwords⟩ := regionOf_some hregion
      have hidle : s.busy = false := by
        have hwaits : Txn.waits Config.sigCap t s = false := by simpa [hostEnabled, hp] using h
        rwa [Txn.waits_eq_busy ht (Region.ne_registers_of_isMemory hr)] at hwaits
      refine .inr (.inr ⟨hidle, r, r.wordIndex t.addr.toNat, v, hr, hwords, ⟨rest, ?_⟩, by rw [he]⟩)
      rw [hp, wordAddr_wordIndex hstart halign, ← Txn.eq_wordWrite ht hv]

end Sys2Proof.Machine
end

section
/-! SUPPORT. The proofs of the statements about the memory and the host port (spec/20_memory.md). -/

namespace Sys2Proof.Proofs

open Sys2Proof Sys2Proof.Machine Sys2Proof.Statements

/-- Settles O40: the write's step sets the word, the read's step finds it, and the bytes are those of `Memory.set`. -/
theorem memoryWriteThenReadReturnsIt : Obligations.MemoryWriteThenReadReturnsIt := by
  intro s r i v rest hr hi hidle hport
  have hwrite := step_wordWrite_memory hidle hr hi hport
  have hread := step_wordRead_memory
    (s := { answered s (wordRead (r.wordAddr i) :: rest) .ok with mem := s.mem.set r i v }) hidle hr hi rfl
  rw [Memory.get_set_self] at hread
  refine ⟨s.mem.set r i v, ?_, fun k hk => Memory.byte_set_self _ r i v hk, fun a => Memory.byte_set_outside _ r i v⟩
  rw [run_succ 1 hwrite, run_succ 0 hread]
  rfl

/-- Settles O42: an access that gets no bus error and misses the register window waits while a command runs, so the
engine's step is the only one enabled, and that step ends the command. -/
theorem memoryAccessIsHeldWhileBusy : Obligations.MemoryAccessIsHeldWhileBusy := by
  intro s sn x rest hf hport hserved hwindow
  have hb : s.busy = true := s.busy_iff.mpr ⟨sn, hf⟩
  obtain ⟨r, hr⟩ := Option.ne_none_iff_exists'.mp (mt (Txn.target_eq_none_iff x).mp hserved)
  have hnotRegisters : r ≠ .registers := by
    rintro rfl
    obtain ⟨-, -, hregion, -⟩ := Txn.target_some hr
    obtain ⟨-, hstop, -⟩ := regionOf_some hregion
    exact absurd hstop (not_lt.mpr hwindow)
  have hwaits : Txn.waits Config.sigCap x s = true := by rw [Txn.waits_eq_busy hr hnotRegisters, hb]
  obtain ⟨t, ht, hends⟩ := engineStep_ends (s := s.afterTurn) hf
  exact ⟨t, by rw [step_of_waits hport hb hwaits, ht], ht, hends⟩

/-- Settles O43: a used-up turn and the engine's step keep the port, and the host's step answers its head. -/
theorem portAnswersInIssueOrder : Obligations.PortAnswersInIssueOrder := by
  intro s t h
  rcases step_cases s with ⟨-, hs⟩ | ⟨-, hs⟩ | ⟨-, hs⟩ <;> rw [hs] at h
  · cases h
    exact .inl ⟨rfl, rfl⟩
  · have hkept := engineStep_port_responses h
    exact .inl hkept
  · cases h
    rcases hostStep_port_responses Config.sigCap s.afterTurn with hsame | hanswered
    · exact .inl (by rw [hsame]; exact ⟨rfl, rfl⟩)
    · exact .inr hanswered

/-- Settles O49: the engine's step ends the command it runs, and of the host's steps only an abort and a memory word's write
touch the memory, the write only while idle since it is held otherwise. -/
theorem memoryIsStableWhileBusy : Obligations.MemoryIsStableWhileBusy := by
  intro s t h
  rcases step_cases s with ⟨-, hs⟩ | ⟨-, hs⟩ | ⟨hnext, hs⟩ <;> rw [hs] at h
  · cases h
    exact .inl rfl
  · rcases engineStep_completes h with ⟨-, rfl⟩ | ⟨hbusy, hended, -⟩
    · exact .inl rfl
    · exact .inr (.inl ⟨hbusy, hended⟩)
  · cases h
    have henabled : hostEnabled Config.sigCap s = true := hostEnabled_of_nextAgent hnext
    exact hostStep_mem (s := s.afterTurn) henabled

/-- Settles O41: the step of a word read, from a memory and from `WIN`. -/
theorem memoryReadsHaveNoSideEffect : Obligations.MemoryReadsHaveNoSideEffect := by
  intro s rest hidle
  refine ⟨fun r i hr hi hport => step_wordRead_memory hidle hr hi hport, fun n hn hport => ?_⟩
  have hword : n < Region.words Config.sigCap .win := by rwa [Region.words_win]
  have haddr : 0x10000 + 4 * n = Region.wordAddr .win n := rfl
  rw [haddr] at hport
  rw [step_wordRead hidle hword hport, readTarget, wordIndex_wordAddr]

/-- Settles O44: an address of the window has its offset from BASE, and any other address none. -/
theorem onlyTheWindowReachesTheBlock : Obligations.OnlyTheWindowReachesTheBlock := by
  intro s access a size
  refine ⟨fun k hk ha => ?_, fun houtside => ?_⟩
  · rw [ha, State.issue_eq_elim, busOffset_inside hk, Option.elim_some]
  · rw [State.issue_eq_elim, busOffset_outside houtside, Option.elim_none]

end Sys2Proof.Proofs
end

section
/-! SUPPORT. The command word as a number (spec/30_encoding.md R66, R71): its fields by division, the word put together from
its fields, and from both that decoder and encoder are inverse to each other, what the rows of the opcode map match (R69),
and that a word no row matches fails validation (R70, R79). -/

namespace Sys2Proof

/-! ## The fields (R66) -/

theorem CmdWord.op_eq (w : Word) : CmdWord.op w = w.toNat / 2 ^ 28 := by
  have := w.isLt
  simp only [CmdWord.op, BitVec.extractLsb_toNat, Nat.shiftRight_eq_div_pow]
  omega

theorem CmdWord.rsv_eq (w : Word) : CmdWord.rsv w = w.toNat / 2 ^ 18 % 2 ^ 10 := by
  simp only [CmdWord.rsv, BitVec.extractLsb_toNat, Nat.shiftRight_eq_div_pow]

theorem CmdWord.ch_eq (w : Word) : CmdWord.ch w = w.toNat / 2 ^ 17 % 2 := by
  simp only [CmdWord.ch, BitVec.extractLsb_toNat, Nat.shiftRight_eq_div_pow]

theorem CmdWord.count_eq (w : Word) : CmdWord.count w = w.toNat / 2 ^ 8 % 2 ^ 9 := by
  simp only [CmdWord.count, BitVec.extractLsb_toNat, Nat.shiftRight_eq_div_pow]

theorem CmdWord.slot_eq (w : Word) : CmdWord.slot w = w.toNat % 2 ^ 8 := by
  simp only [CmdWord.slot, BitVec.extractLsb_toNat, Nat.shiftRight_eq_div_pow, pow_zero, Nat.div_one]

theorem CmdWord.ch_lt (w : Word) : CmdWord.ch w < 2 := (w.extractLsb 17 17).isLt
theorem CmdWord.count_lt (w : Word) : CmdWord.count w < 512 := (w.extractLsb 16 8).isLt
theorem CmdWord.slot_lt (w : Word) : CmdWord.slot w < 256 := (w.extractLsb 7 0).isLt

/-! ## The word of given fields (R71) -/

theorem toNat_append_eq_add {m n : Nat} (x : BitVec m) (y : BitVec n) : (x ++ y).toNat = x.toNat * 2 ^ n + y.toNat := by
  rw [BitVec.toNat_append, ← Nat.shiftLeft_add_eq_or_of_lt y.isLt, Nat.shiftLeft_eq]

theorem encodeFields_toNat (op ch count slot : Nat) :
    (encodeFields op ch count slot).toNat =
      op % 2 ^ 4 * 2 ^ 28 + ch % 2 * 2 ^ 17 + count % 2 ^ 9 * 2 ^ 8 + slot % 2 ^ 8 := by
  simp only [encodeFields, toNat_append_eq_add, BitVec.toNat_ofNat]
  omega

section
variable (op ch count slot : Nat)

@[simp] theorem op_encodeFields : CmdWord.op (encodeFields op ch count slot) = op % 2 ^ 4 := by
  rw [CmdWord.op_eq, encodeFields_toNat]; omega

@[simp] theorem rsv_encodeFields : CmdWord.rsv (encodeFields op ch count slot) = 0 := by
  rw [CmdWord.rsv_eq, encodeFields_toNat]; omega

@[simp] theorem ch_encodeFields : CmdWord.ch (encodeFields op ch count slot) = ch % 2 := by
  rw [CmdWord.ch_eq, encodeFields_toNat]; omega

@[simp] theorem count_encodeFields : CmdWord.count (encodeFields op ch count slot) = count % 2 ^ 9 := by
  rw [CmdWord.count_eq, encodeFields_toNat]; omega

@[simp] theorem slot_encodeFields : CmdWord.slot (encodeFields op ch count slot) = slot % 2 ^ 8 := by
  rw [CmdWord.slot_eq, encodeFields_toNat]; omega

end

/-- A word without reserved bits is the word of its fields. -/
theorem encodeFields_eq {w : Word} {op ch count slot : Nat} (hop : CmdWord.op w = op) (hrsv : CmdWord.rsv w = 0)
    (hch : CmdWord.ch w = ch) (hcount : CmdWord.count w = count) (hslot : CmdWord.slot w = slot) :
    encodeFields op ch count slot = w := by
  have := w.isLt
  rw [CmdWord.op_eq] at hop
  rw [CmdWord.rsv_eq] at hrsv
  rw [CmdWord.ch_eq] at hch
  rw [CmdWord.count_eq] at hcount
  rw [CmdWord.slot_eq] at hslot
  apply BitVec.eq_of_toNat_eq
  rw [encodeFields_toNat]
  omega

/-! ## Channels (R67) -/

@[simp] theorem Channel.ofIndex_index_mod (ch : Channel) : Channel.ofIndex (ch.index % 2) = ch := by
  cases ch <;> rfl

/-- The field CH has one bit, so the channel it selects has its value as number. -/
@[simp] theorem Channel.index_ofIndex_ch (w : Word) : (Channel.ofIndex (CmdWord.ch w)).index = CmdWord.ch w := by
  have hlt := CmdWord.ch_lt w
  interval_cases CmdWord.ch w <;> rfl

/-! ## Decoder and encoder -/

/-- The command of an encoding: each operand is inside its field, so no field cuts it. -/
theorem decode_encode {i : Instr} (h : i.wellFormed = true) : decode (encode i) = .ok i := by
  cases i with
  | nop => rfl
  | pad ch => simp [encode, decode]
  | clr ch => simp [encode, decode]
  | fwd ch count slot =>
    simp only [Instr.wellFormed, Bool.and_eq_true, decide_eq_true_eq] at h
    obtain ⟨hcount, hslot⟩ := h
    simp [encode, decode, Nat.mod_eq_of_lt hcount, Nat.mod_eq_of_lt hslot]
  | inv ch count slot =>
    simp only [Instr.wellFormed, Bool.and_eq_true, decide_eq_true_eq] at h
    obtain ⟨hcount, hslot⟩ := h
    simp [encode, decode, Nat.mod_eq_of_lt hcount, Nat.mod_eq_of_lt hslot]
  | pack count =>
    simp only [Instr.wellFormed, decide_eq_true_eq] at h
    simp [encode, decode, Nat.mod_eq_of_lt h]
  | unpack => rfl
  | finish => rfl

theorem ok_of_ite_ok {ε α : Type} {p : Prop} [Decidable p] {a b : α} {e : ε}
    (h : (if p then .ok a else .error e) = Except.ok b) : p ∧ a = b := by
  split at h
  next hp => exact ⟨hp, Except.ok.inj h⟩
  next => cases h

/-- The decoder refuses a reserved bit. -/
theorem rsv_of_decode_ok {w : Word} {i : Instr} (h : decode w = .ok i) : CmdWord.rsv w = 0 := by
  by_contra hrsv
  unfold decode at h
  simp only [ne_eq, hrsv, not_false_eq_true, if_true] at h
  split at h <;> cases h

/-- Everything the decoder accepts: a word whose fields are the opcode and the operands of the command it gives, and zero
where its row has no operand (R69). -/
theorem encode_of_decode_ok {w : Word} {i : Instr} (h : decode w = .ok i) : i.wellFormed = true ∧ encode i = w := by
  have hrsv := rsv_of_decode_ok h
  have hcountLt := CmdWord.count_lt w
  have hslotLt := CmdWord.slot_lt w
  have hchannel := (Channel.index_ofIndex_ch w).symm
  unfold decode at h
  simp only [ne_eq, hrsv, not_true_eq_false, if_false] at h
  split at h
  next => cases h
  split at h
  next hop =>
    obtain ⟨⟨hch, hcount, hslot⟩, rfl⟩ := ok_of_ite_ok h
    exact ⟨rfl, encodeFields_eq hop hrsv hch hcount hslot⟩
  next hop =>
    obtain ⟨⟨hcount, hslot⟩, rfl⟩ := ok_of_ite_ok h
    exact ⟨rfl, encodeFields_eq hop hrsv hchannel hcount hslot⟩
  next hop =>
    obtain ⟨⟨hcount, hslot⟩, rfl⟩ := ok_of_ite_ok h
    exact ⟨rfl, encodeFields_eq hop hrsv hchannel hcount hslot⟩
  next hop =>
    cases h
    exact ⟨by simp [Instr.wellFormed, hcountLt, hslotLt], encodeFields_eq hop hrsv hchannel rfl rfl⟩
  next hop =>
    cases h
    exact ⟨by simp [Instr.wellFormed, hcountLt, hslotLt], encodeFields_eq hop hrsv hchannel rfl rfl⟩
  next hop =>
    obtain ⟨⟨hch, hslot⟩, rfl⟩ := ok_of_ite_ok h
    exact ⟨by simp [Instr.wellFormed, hcountLt], encodeFields_eq hop hrsv hch rfl hslot⟩
  next hop =>
    obtain ⟨⟨hch, hcount, hslot⟩, rfl⟩ := ok_of_ite_ok h
    exact ⟨rfl, encodeFields_eq hop hrsv hch hcount hslot⟩
  next hop =>
    obtain ⟨⟨hch, hcount, hslot⟩, rfl⟩ := ok_of_ite_ok h
    exact ⟨rfl, encodeFields_eq hop hrsv hch hcount hslot⟩
  next => cases h

/-- The decoder is the inverse of the encoder on well-formed commands (R69, R71). -/
theorem decode_eq_ok_iff (w : Word) (i : Instr) : decode w = .ok i ↔ i.wellFormed = true ∧ encode i = w := by
  refine ⟨encode_of_decode_ok, ?_⟩
  rintro ⟨hwf, rfl⟩
  exact decode_encode hwf

/-! ## The rows of the opcode map (R69) -/

/-- The encoding of a command has the fixed bits of the command's row. -/
theorem encode_and_rowMask (i : Instr) : encode i &&& i.rowMask = i.rowMatch := by
  cases i with
  | nop => exact Laws.EncodingSelectsRow.nop
  | pad ch => exact Laws.EncodingSelectsRow.pad ch
  | clr ch => exact Laws.EncodingSelectsRow.clr ch
  | fwd ch count slot => exact Laws.EncodingSelectsRow.fwd ch count slot
  | inv ch count slot => exact Laws.EncodingSelectsRow.inv ch count slot
  | pack count => exact Laws.EncodingSelectsRow.pack count
  | unpack => exact Laws.EncodingSelectsRow.unpack
  | finish => exact Laws.EncodingSelectsRow.finish

/-- A field whose bits a mask keeps all is read off the masked word. -/
theorem field_eq_of_and_eq {w m v : Word} {hi lo n : Nat} (h : w &&& m = v) (hm : m.extractLsb hi lo = BitVec.allOnes _)
    (hv : (v.extractLsb hi lo).toNat = n) : (w.extractLsb hi lo).toNat = n := by
  rw [← hv, ← h, BitVec.extractLsb_and, hm, BitVec.and_allOnes]

/-- The command of the same row with the operands a word's fields hold. -/
def Instr.withOperandsOf (w : Word) : Instr → Instr
  | .nop => .nop
  | .pad _ => .pad (.ofIndex (CmdWord.ch w))
  | .clr _ => .clr (.ofIndex (CmdWord.ch w))
  | .fwd _ _ _ => .fwd (.ofIndex (CmdWord.ch w)) (CmdWord.count w) (CmdWord.slot w)
  | .inv _ _ _ => .inv (.ofIndex (CmdWord.ch w)) (CmdWord.count w) (CmdWord.slot w)
  | .pack _ => .pack (CmdWord.count w)
  | .unpack => .unpack
  | .finish => .finish

@[simp] theorem Instr.rowMask_withOperandsOf (w : Word) (i : Instr) : (i.withOperandsOf w).rowMask = i.rowMask := by
  cases i <;> rfl

@[simp] theorem Instr.rowMatch_withOperandsOf (w : Word) (i : Instr) : (i.withOperandsOf w).rowMatch = i.rowMatch := by
  cases i <;> rfl

theorem Instr.wellFormed_withOperandsOf (w : Word) (i : Instr) : (i.withOperandsOf w).wellFormed = true := by
  have := CmdWord.count_lt w
  have := CmdWord.slot_lt w
  cases i <;> simp_all [Instr.withOperandsOf, Instr.wellFormed]

/-- A word a row matches is the encoding of a command of that row: the row fixes `OP`, `RSV` and the fields it has no operand
for, and the other fields are the operands. -/
theorem encode_withOperandsOf_of_row {w : Word} {i : Instr} (h : w &&& i.rowMask = i.rowMatch) :
    encode (i.withOperandsOf w) = w := by
  have hchannel := (Channel.index_ofIndex_ch w).symm
  cases i with
  | nop =>
    change w &&& 0xFFFFFFFF#32 = 0x00000000#32 at h
    refine encodeFields_eq ?_ ?_ ?_ ?_ ?_ <;> exact field_eq_of_and_eq h rfl rfl
  | pad ch =>
    change w &&& 0xFFFDFFFF#32 = 0x10000000#32 at h
    refine encodeFields_eq ?_ ?_ hchannel ?_ ?_ <;> exact field_eq_of_and_eq h rfl rfl
  | clr ch =>
    change w &&& 0xFFFDFFFF#32 = 0x20000000#32 at h
    refine encodeFields_eq ?_ ?_ hchannel ?_ ?_ <;> exact field_eq_of_and_eq h rfl rfl
  | fwd ch count slot =>
    change w &&& 0xFFFC0000#32 = 0x30000000#32 at h
    refine encodeFields_eq ?_ ?_ hchannel rfl rfl <;> exact field_eq_of_and_eq h rfl rfl
  | inv ch count slot =>
    change w &&& 0xFFFC0000#32 = 0x40000000#32 at h
    refine encodeFields_eq ?_ ?_ hchannel rfl rfl <;> exact field_eq_of_and_eq h rfl rfl
  | pack count =>
    change w &&& 0xFFFE00FF#32 = 0x50000000#32 at h
    refine encodeFields_eq ?_ ?_ ?_ rfl ?_ <;> exact field_eq_of_and_eq h rfl rfl
  | unpack =>
    change w &&& 0xFFFFFFFF#32 = 0x60000000#32 at h
    refine encodeFields_eq ?_ ?_ ?_ ?_ ?_ <;> exact field_eq_of_and_eq h rfl rfl
  | finish =>
    change w &&& 0xFFFFFFFF#32 = 0x70000000#32 at h
    refine encodeFields_eq ?_ ?_ ?_ ?_ ?_ <;> exact field_eq_of_and_eq h rfl rfl

/-- A command the decoder gives has a row that matches the word. -/
theorem row_of_decode_ok {w : Word} {i : Instr} (h : decode w = .ok i) : w &&& i.rowMask = i.rowMatch := by
  obtain ⟨-, rfl⟩ := encode_of_decode_ok h
  exact encode_and_rowMask i

/-- A word a row matches decodes to the command of that row with the word's operands. -/
theorem decode_of_row {w : Word} {i : Instr} (h : w &&& i.rowMask = i.rowMatch) :
    decode w = .ok (i.withOperandsOf w) :=
  (decode_eq_ok_iff w _).mpr ⟨i.wellFormed_withOperandsOf w, encode_withOperandsOf_of_row h⟩

/-- The decoder refuses a word that no row matches (R70). -/
theorem decode_error_of_no_row {w : Word} (h : ∀ i : Instr, w &&& i.rowMask ≠ i.rowMatch) :
    ∃ e, decode w = .error e := by
  cases hd : decode w with
  | error e => exact ⟨e, rfl⟩
  | ok i => exact absurd (row_of_decode_ok hd) (h i)

end Sys2Proof

namespace Sys2Proof.Machine

/-- A word that no row matches fails validation by row 1 of R79. -/
theorem validateWord_of_no_row (cap : Nat) {sn : Snapshot} (h : ∀ i : Instr, sn.cmd &&& i.rowMask ≠ i.rowMatch) :
    validateWord cap sn = some .illegalCmd := by
  obtain ⟨e, hd⟩ := decode_error_of_no_row h
  simp only [validateWord, hd]

/-- The fields completion with an error sets, the record only while `ERR` is 0 (R80, R81). -/
theorem State.completeWithError_eq (s : State) (e : CmdError) (word : Word) :
    s.completeWithError e word =
      { s with
        err := true
        errcode := if s.err then s.errcode else e.code
        errinfo := if s.err then s.errinfo else word
        inFlight := none
        done := true
        cmdcount := s.cmdcount + 1 } := by
  cases h : s.err <;> simp [State.completeWithError, State.recordError, State.complete, h]

end Sys2Proof.Machine
end

section
/-! SUPPORT. The proofs of the statements about the encoding (spec/30_encoding.md). -/

namespace Sys2Proof.Proofs

open Sys2Proof Sys2Proof.Machine Sys2Proof.Statements

/-- Settles O1: the decoder reads back each field of an encoding, and a well-formed operand is not cut by its field. -/
theorem decodeOfEncodeIsIdentity : Obligations.DecodeOfEncodeIsIdentity :=
  fun _ hwf => decode_encode hwf

/-- Settles O2: in each case the decoder accepts, the word is put together again from its fields. -/
theorem encodeOfDecodeIsIdentity : Obligations.EncodeOfDecodeIsIdentity :=
  fun _ _ hd => encode_of_decode_ok hd

/-- Settles O3: the command the decoder gives a matched word is of the matching row, so two matching rows are one. -/
theorem decoderAcceptsExactlyTheOpcodeMap : Obligations.DecoderAcceptsExactlyTheOpcodeMap := by
  refine fun w => ⟨fun i hd => row_of_decode_ok hd, fun ⟨i, hi⟩ => ⟨_, decode_of_row hi⟩, fun i j hi hj => ?_⟩
  have hsame : i.withOperandsOf w = j.withOperandsOf w := Except.ok.inj ((decode_of_row hi).symm.trans (decode_of_row hj))
  have hmask := congrArg Instr.rowMask hsame
  have hmatch := congrArg Instr.rowMatch hsame
  simp only [Instr.rowMask_withOperandsOf, Instr.rowMatch_withOperandsOf] at hmask hmatch
  exact ⟨hmask, hmatch⟩

/-- Settles O4: each word is the encoding of its command. -/
theorem sampleWordsDecode : Obligations.SampleWordsDecode := by
  unfold Obligations.SampleWordsDecode
  simp only [decode_eq_ok_iff]
  decide

/-- Settles O7: the decoder refuses the word, so it fails validation with `ILLEGAL_CMD`, and the engine's step completes it
with that error. -/
theorem illegalWordCompletesWithItsError : Obligations.IllegalWordCompletesWithItsError := by
  intro s sn ⟨hf, hturn⟩ hrow
  have hv := validateWord_of_no_row Config.sigCap hrow
  have hf' : s.afterTurn.inFlight = some sn := hf
  rw [step_engine (s.busy_iff.mpr ⟨sn, hf⟩) hturn, engineStep_error hf' hv, State.completeWithError_eq]
  rfl

end Sys2Proof.Proofs
end

section
/-! SUPPORT. Validation over the fields of the command word (spec/40_command_common.md R79): the operands of a decoded command
are the word's fields, so each row's condition is one on the bits of the snapshot. -/

namespace Sys2Proof

/-- The `OP` column of a command's row (R69). -/
def Instr.opcode : Instr → Nat
  | .nop => 0
  | .pad _ => 1
  | .clr _ => 2
  | .fwd _ _ _ => 3
  | .inv _ _ _ => 4
  | .pack _ => 5
  | .unpack => 6
  | .finish => 7

theorem op_encode (i : Instr) : CmdWord.op (encode i) = i.opcode := by
  cases i <;> exact op_encodeFields ..

theorem op_of_decode_ok {w : Word} {i : Instr} (h : decode w = .ok i) : CmdWord.op w = i.opcode := by
  obtain ⟨-, rfl⟩ := encode_of_decode_ok h
  exact op_encode i

end Sys2Proof

namespace Sys2Proof.Machine

open Sys2Proof.Statements

/-! ## The operands of a decoded command (R67) -/

section
variable {w : Word} {i : Instr}

/-- The commands with a batch have the word's COUNT and SLOT; `PACK` has slot 0, as its word does. -/
theorem batchOperands_of_decode_ok (h : decode w = .ok i) :
    batchOperands i = if CmdWord.op w ∈ [3, 4, 5] then some (CmdWord.count w, CmdWord.slot w) else none := by
  obtain ⟨hwf, rfl⟩ := encode_of_decode_ok h
  rw [op_encode]
  cases i with
  | fwd ch count slot | inv ch count slot =>
    simp only [Instr.wellFormed, Bool.and_eq_true, decide_eq_true_eq] at hwf
    obtain ⟨hcount, hslot⟩ := hwf
    simp [batchOperands, Instr.opcode, encode, Nat.mod_eq_of_lt hcount, Nat.mod_eq_of_lt hslot]
  | pack count =>
    simp only [Instr.wellFormed, decide_eq_true_eq] at hwf
    simp [batchOperands, Instr.opcode, encode, Nat.mod_eq_of_lt hwf]
  | _ => rfl

/-- The commands that read frames have the word's COUNT. -/
theorem frameOperands_of_decode_ok (h : decode w = .ok i) :
    frameOperands i = if CmdWord.op w ∈ [3, 4] then some (CmdWord.count w) else none := by
  obtain ⟨hwf, rfl⟩ := encode_of_decode_ok h
  rw [op_encode]
  cases i with
  | fwd ch count slot | inv ch count slot =>
    simp only [Instr.wellFormed, Bool.and_eq_true, decide_eq_true_eq] at hwf
    obtain ⟨hcount, -⟩ := hwf
    simp [frameOperands, Instr.opcode, encode, Nat.mod_eq_of_lt hcount]
  | _ => rfl

theorem needsChannel_of_decode_ok (h : decode w = .ok i) :
    needsChannel i = decide (CmdWord.op w ∈ [1, 2, 3, 4, 7]) := by
  rw [op_of_decode_ok h]
  cases i <;> rfl

theorem checksLength_of_decode_ok (h : decode w = .ok i) : checksLength i = decide (CmdWord.op w = 1) := by
  rw [op_of_decode_ok h]
  cases i <;> rfl

theorem checksNorm_of_decode_ok (h : decode w = .ok i) : checksNorm i = decide (CmdWord.op w = 7) := by
  rw [op_of_decode_ok h]
  cases i <;> rfl

end

/-! ## The rows of R79 -/

theorem any_ite_some {α : Type} (c : Prop) [Decidable c] (x : α) (p : α → Bool) :
    (if c then some x else none).any p = (decide c && p x) := by
  by_cases hc : c <;> simp [hc]

theorem batchOverflows_iff (count slot : Nat) :
    batchOverflows count slot = true ↔ 256 < count ∨ 256 < slot + count := by
  simp [batchOverflows]

theorem capacityExceeded_iff (cap : Nat) (sn : Snapshot) :
    capacityExceeded cap sn = true ↔ cap < sn.length + 4096 := decide_eq_true_iff

theorem lastFrameOutside_iff (count : Nat) (sn : Snapshot) :
    lastFrameOutside count sn = true ↔
      0 < count ∧ sn.length < (sn.framebase.toNat + count - 1) * sn.hop.toNat := by
  simp [lastFrameOutside]

/-- Row 7: the exponent field all ones is an infinity or a NaN, bit 31 the sign, the lower 31 bits 0 a zero. -/
theorem normUnusable_iff (norm : Word) :
    normUnusable norm = true ↔
      norm.extractLsb 30 23 = 0xFF#8 ∨ norm.getLsbD 31 = true ∨ norm.extractLsb 30 0 = 0#31 := by
  have hexp : F32.expField norm = 255 ↔ norm.extractLsb 30 23 = 0xFF#8 := by
    rw [← BitVec.toNat_inj]; rfl
  simp only [normUnusable, Bool.or_eq_true, beq_iff_eq, hexp, BitVec.msb_eq_getLsbD_last, or_assoc]
  rfl

/-- One test of a chain that reports the first condition which holds. -/
theorem firstOf_cons_ite {e : CmdError} {holds : Prop} {rest : List (CmdError × Prop)} {test : Bool}
    {o : Option CmdError} (h : test = true ↔ holds) (hrest : FirstOf rest o) :
    FirstOf ((e, holds) :: rest) (if test then some e else o) := by
  cases test with
  | true => exact .inl ⟨h.mp rfl, rfl⟩
  | false => exact .inr ⟨mt h.mpr Bool.false_ne_true, hrest⟩

/-- Rows 2 to 7 for a word that decodes: `validate` tests them in the table's order. -/
theorem firstOf_validationRows_tail {sn : Snapshot} {i : Instr} (h : decode sn.cmd = .ok i) :
    FirstOf (validationRows sn).tail (validate Config.sigCap i sn) := by
  unfold validate
  rw [batchOperands_of_decode_ok h, frameOperands_of_decode_ok h, needsChannel_of_decode_ok h,
    checksLength_of_decode_ok h, checksNorm_of_decode_ok h]
  simp only [any_ite_some]
  refine firstOf_cons_ite ?batch <| firstOf_cons_ite ?capacity <| firstOf_cons_ite ?hop <| firstOf_cons_ite ?length <|
    firstOf_cons_ite ?size <| firstOf_cons_ite ?norm rfl
  all_goals simp only [Bool.and_eq_true, decide_eq_true_eq]
  case batch => exact and_congr_right' (batchOverflows_iff ..)
  case capacity => exact and_congr_right' (capacityExceeded_iff ..)
  case hop => exact and_congr Option.isSome_ite beq_iff_eq
  case length => exact Iff.rfl
  case size => exact and_congr_right' (lastFrameOutside_iff ..)
  case norm => exact and_congr_right' (normUnusable_iff ..)

end Sys2Proof.Machine
end

section
/-! SUPPORT. What acceptance, the run of a command and its end do (spec/40_command_common.md R75 to R85): the engine's step on a
decoded word, a write of `CMD`, the bytes an effect keeps, and that every step uses up a turn. -/

namespace Sys2Proof.Machine

/-! ## Acceptance (R76, R77) -/

theorem State.writeCmd_idle {s : State} (h : s.inFlight = none) (v : Word) : s.writeCmd v = s.accept v := by
  simp [State.writeCmd, State.busy, h]

theorem State.writeCmd_busy {s : State} {sn : Snapshot} (h : s.inFlight = some sn) (v : Word) :
    s.writeCmd v = { s with ovr := true } := by
  simp [State.writeCmd, State.busy, h]

/-! ## The run of a command (R78) -/

/-- A word in flight that decodes is run by its command's arm. -/
theorem engineStep_of_decode_ok {s : State} {sn : Snapshot} {i : Instr} (h : s.inFlight = some sn)
    (hd : decode sn.cmd = .ok i) : engineStep s = exec i s := by
  simp [engineStep, h, hd]

/-- A command that passes validation has its effect and completes (R80). -/
theorem exec_valid {s : State} {sn : Snapshot} {i : Instr} (h : s.inFlight = some sn)
    (hv : validate Config.sigCap i sn = none) :
    exec i s = .next (State.complete { s with mem := effect i sn s.mem }) := by
  rw [exec_eq_runCommand, runCommand_valid h hv]

/-- No row of R79 applies to `NOP`. -/
theorem validate_nop (cap : Nat) (sn : Snapshot) : validate cap .nop sn = none := rfl

/-! ## The bytes an effect keeps (R140) -/

theorem inRanges_cons_eq_false_iff (r : WordRange) (rs : List WordRange) (a : Nat) :
    inRanges (r :: rs) a = false ↔
      (a < r.region.wordAddr r.first ∨ r.region.wordAddr r.first + 4 * r.count ≤ a) ∧ inRanges rs a = false := by
  simp [inRanges, Decidable.imp_iff_not_or]

theorem inRanges_of_cons {r : WordRange} {rs : List WordRange} {a : Nat} (h : inRanges (r :: rs) a = false) :
    inRanges rs a = false :=
  ((inRanges_cons_eq_false_iff r rs a).mp h).2

/-- Writing the first range of a list keeps the bytes outside the list. -/
theorem Memory.byte_setRange_of_inRanges {m : Memory} {r : Region} {first n a : Nat} {f : Nat → Word}
    {rs : List WordRange} (h : inRanges (⟨r, first, n⟩ :: rs) a = false) : (m.setRange r first n f).byte a = m.byte a :=
  Memory.byte_setRange_outside m r first n a f ((inRanges_cons_eq_false_iff _ rs a).mp h).1

/-- A loop whose every iteration keeps a byte keeps it. -/
theorem Memory.byte_foldl {f : Memory → Nat → Memory} {ks : List Nat} {a : Nat}
    (h : ∀ k ∈ ks, ∀ m, (f m k).byte a = m.byte a) (m : Memory) : (ks.foldl f m).byte a = m.byte a :=
  List.foldlRecOn ks f (motive := fun m' => m'.byte a = m.byte a) rfl fun m' hm' k hk => (h k hk m').trans hm'

theorem specWord_slot_add (slot k : Nat) : specWord (slot + k) 0 = specWord slot 0 + 8192 * k := by
  unfold specWord
  ring

/-- The slots of a batch of `FWD` are consecutive. -/
theorem fwdMemory_byte_outside (dft : Transform) (ch : Channel) (count slot : Nat) (sn : Snapshot) (m : Memory) {a : Nat}
    (h : a < (Region.spec ch).wordAddr (specWord slot 0) ∨
      (Region.spec ch).wordAddr (specWord slot 0) + 4 * (count * 8192) ≤ a) :
    (fwdMemory dft ch count slot sn m).byte a = m.byte a := by
  refine Memory.byte_foldl (fun k hk m => Memory.byte_setRange_outside _ _ _ _ _ _ ?_) m
  have hk : k < count := List.mem_range.mp hk
  rw [specWord_slot_add]
  unfold Region.wordAddr at *
  omega

theorem Snapshot.frameOffset_mono (sn : Snapshot) {j k : Nat} (h : j ≤ k) : sn.frameOffset j ≤ sn.frameOffset k :=
  Nat.mul_le_mul_right _ (Nat.add_le_add_left h _)

/-- The frames of a batch of `INV` lie between the first frame's start and the last frame's end. -/
theorem invMemory_byte_outside (idft : Transform) (ch : Channel) (count slot : Nat) (sn : Snapshot) (m : Memory) {a : Nat}
    (h : 0 < count → a < (Region.ola ch).wordAddr (sn.frameOffset 0) ∨
      (Region.ola ch).wordAddr (sn.frameOffset (count - 1) + 4096) ≤ a) :
    (invMemory idft ch count slot sn m).byte a = m.byte a := by
  refine Memory.byte_foldl (fun k hk m => Memory.byte_setRange_outside _ _ _ _ _ _ ?_) m
  have hk : k < count := List.mem_range.mp hk
  have hfirst := sn.frameOffset_mono (Nat.zero_le k)
  have hlast := sn.frameOffset_mono (Nat.le_sub_one_of_lt hk)
  have := h (by omega)
  unfold Region.wordAddr at *
  omega

/-- The effect of a command keeps every byte outside its write set. -/
theorem effect_byte_outside (i : Instr) (sn : Snapshot) (m : Memory) {a : Nat}
    (h : inRanges (writeSet i sn) a = false) : (effect i sn m).byte a = m.byte a := by
  cases i with
  | nop => rfl
  | pad ch =>
    rw [effect, padMemory, padRight, padLeft, Memory.byte_setRange_of_inRanges (inRanges_of_cons h),
      Memory.byte_setRange_of_inRanges h]
  | unpack =>
    rw [effect, unpackMemory, unpackChannel, unpackChannel, Memory.byte_setRange_of_inRanges (inRanges_of_cons h),
      Memory.byte_setRange_of_inRanges h]
  | clr ch => rw [effect, clrMemory, Memory.byte_setRange_of_inRanges h]
  | pack count => rw [effect, packMemory, Memory.byte_setRange_of_inRanges h]
  | finish => rw [effect, finishMemory, Memory.byte_setRange_of_inRanges h]
  | fwd ch count slot =>
    rw [writeSet, inRanges_cons_eq_false_iff] at h
    obtain ⟨houtside, -⟩ := h
    exact fwdMemory_byte_outside _ ch count slot sn m houtside
  | inv ch count slot =>
    refine invMemory_byte_outside _ ch count slot sn m fun hcount => ?_
    rw [writeSet, if_neg hcount.ne', inRanges_cons_eq_false_iff] at h
    obtain ⟨hrange, -⟩ := h
    have := sn.frameOffset_mono (Nat.zero_le (count - 1))
    unfold Region.wordAddr at *
    dsimp only at hrange
    omega

/-! ## Every step uses up a turn (R75) -/

theorem regWrite_turns (cap : Nat) (s : State) (v : Word) (r : Reg) : (regWrite cap s v r).turns = s.turns := by
  cases r with
  | ctrl =>
    cases h : v.getLsbD 0 with
    | false => exact congrArg (·.turns) (s.writeCtrl_of_clear h)
    | true => exact congrArg (·.turns) (s.writeCtrl_of_set h)
  | status => exact State.writeStatus_turns s v
  | cmd => cases h : s.busy <;> simp [regWrite, State.writeCmd, h]
  | _ => rfl

theorem hostStep_turns (cap : Nat) (s : State) : (hostStep cap s).turns = s.turns := by
  cases hp : s.port with
  | nil => simp [hostStep, hp]
  | cons t rest =>
    rw [hostStep_cons hp]
    rcases Txn.effect_cases cap t { s with port := rest } with he | ⟨v, -, -, he⟩ | ⟨v, r, -, -, -, he⟩ <;> rw [he]
    exact regWrite_turns ..

/-- A step while a command is in flight ends the command or uses up a turn. -/
theorem step_ends_or_uses_turn (s : State) (h : s.busy = true) :
    ∃ t, step s = .next t ∧ (t.busy = false ∨ t.turns = s.turns.tail) := by
  obtain ⟨sn, hf⟩ := s.busy_iff.mp h
  rcases step_cases s with ⟨-, hs⟩ | ⟨-, hs⟩ | ⟨-, hs⟩
  · exact ⟨_, hs, .inr rfl⟩
  · obtain ⟨t, ht, -, -, hended⟩ := engineStep_ends (s := s.afterTurn) hf
    exact ⟨t, hs.trans ht, .inl (by simp [State.busy, hended])⟩
  · exact ⟨_, hs, .inr (hostStep_turns ..)⟩

/-- Once the turns are used up the engine moves, and its step ends the command. -/
theorem step_ends_of_no_turns {s : State} (h : s.busy = true) (hturns : s.turns = []) :
    ∃ t, step s = .next t ∧ t.busy = false := by
  obtain ⟨sn, hf⟩ := s.busy_iff.mp h
  obtain ⟨t, ht, -, -, hended⟩ := engineStep_ends (s := s.afterTurn) hf
  exact ⟨t, by rw [step_engine h (by simp [hturns]), ht], by simp [State.busy, hended]⟩

end Sys2Proof.Machine
end

section
/-! SUPPORT. The proofs of the statements common to all commands (spec/40_command_common.md). -/

namespace Sys2Proof.Proofs

open Sys2Proof Sys2Proof.Machine Sys2Proof.Statements

/-- Settles O11: row 1 holds exactly for the words the decoder refuses, and for a decoded command `validate` tests rows 2 to 7
in their order. -/
theorem validationReportsTheFirstRow : Obligations.ValidationReportsTheFirstRow := by
  intro sn
  cases hd : decode sn.cmd with
  | error e =>
    have hrow (i : Instr) : sn.cmd &&& i.rowMask ≠ i.rowMatch := fun hi => by simp [decode_of_row hi] at hd
    exact .inl ⟨hrow, validateWord_of_no_row _ hrow⟩
  | ok i =>
    have hv : validateWord Config.sigCap sn = validate Config.sigCap i sn := by simp only [validateWord, hd]
    rw [hv]
    exact .inr ⟨fun hrow => hrow i (row_of_decode_ok hd), firstOf_validationRows_tail hd⟩

/-- Settles O13: the command completes with its effect, which keeps every byte outside its write set. -/
theorem validCommandCompletesInsideItsWriteSet : Obligations.ValidCommandCompletesInsideItsWriteSet :=
  fun i s sn hf hv => ⟨effect i sn s.mem, exec_valid hf hv, fun _ => effect_byte_outside i sn s.mem⟩

/-- Settles O47, by induction on the turns listed: each step ends the command or uses up one, and after the last the engine
moves. -/
theorem everyCommandEnds : Obligations.EveryCommandEnds := by
  intro s hb
  induction hturns : s.turns generalizing s with
  | nil =>
    obtain ⟨t, hs, hended⟩ := step_ends_of_no_turns hb hturns
    exact ⟨1, t, by simp, run_succ 0 hs, hended⟩
  | cons a rest ih =>
    obtain ⟨t, hs, ht⟩ := step_ends_or_uses_turn s hb
    cases hbt : t.busy with
    | false => exact ⟨1, t, by simp, run_succ 0 hs, hbt⟩
    | true =>
      have hrest : t.turns = rest := by
        rcases ht with hended | hused
        · simp [hended] at hbt
        · rw [hused, hturns, List.tail_cons]
      obtain ⟨k, u, hk, hrun, hended⟩ := ih t hbt hrest
      exact ⟨k + 1, u, Nat.succ_le_succ hk, (run_succ k hs).trans hrun, hended⟩

/-- Settles O5: the engine moves, and the word in flight decodes. -/
theorem stepRunsTheDecodedCommand : Obligations.StepRunsTheDecodedCommand := by
  intro s sn i ⟨hf, hturn⟩ hd
  rw [step_engine (s.busy_iff.mpr ⟨sn, hf⟩) hturn]
  exact engineStep_of_decode_ok (s := s.afterTurn) hf hd

/-- Settles O6: placing accepts the word and lists the engine's turn, which the step uses up. -/
theorem placedWordIsRunNext : Obligations.PlacedWordIsRunNext := by
  intro s w i hd
  have hword : BitVec.ofNat 32 (w.toNat % 2 ^ 32) = w := by
    rw [Nat.mod_eq_of_lt w.isLt, BitVec.ofNat_toNat, BitVec.setWidth_eq]
  have hplaced : (s.withFetchWord 32 w.toNat).afterTurn = s.accept w := by
    rw [State.withFetchWord, hword]; rfl
  rw [step_engine (s.busy_withFetchWord 32 w.toNat) (by simp), hplaced]
  exact engineStep_of_decode_ok (State.accept_inFlight s w) hd

/-- Settles O9: the host's step writes `CMD`, which the idle block accepts. -/
theorem commandWriteWhileIdleIsAccepted : Obligations.CommandWriteWhileIdleIsAccepted := by
  intro s v rest hport hidle
  rw [step_writeReg .cmd ⟨hport, .inr hidle⟩]
  exact congrArg _ (State.writeCmd_idle (s := answered s rest .ok) hidle v)

/-- Settles O10: the host's step writes `CMD`, which the busy block drops. -/
theorem commandWriteWhileBusyIsDropped : Obligations.CommandWriteWhileBusyIsDropped := by
  intro s v rest sn hport hf hturn
  rw [step_writeReg .cmd ⟨hport, .inl hturn⟩]
  exact congrArg _ (State.writeCmd_busy (s := answered s rest .ok) hf v)

/-- Settles O12: completion with an error sets these fields alone. -/
theorem failedCommandOnlyRecordsItsError : Obligations.FailedCommandOnlyRecordsItsError := by
  intro s sn e hf hv
  rw [engineStep_error hf hv, State.completeWithError_eq]

/-- Settles O15: `NOP` always passes validation, and its effect is none. -/
theorem nopOnlyCompletes : Obligations.NopOnlyCompletes :=
  fun _ sn hf => exec_valid hf (validate_nop _ sn)

/-- Settles O52: validation and the effect see the snapshot and the memory alone. -/
theorem resultDependsOnSnapshotAndMemory : Obligations.ResultDependsOnSnapshotAndMemory := by
  intro s s' t t' hflight hmem hs hs'
  cases hf : s.inFlight with
  | none =>
    rw [engineStep_idle hf] at hs
    rw [engineStep_idle (hflight ▸ hf)] at hs'
    cases hs
    cases hs'
    exact hmem
  | some sn =>
    have hf' : s'.inFlight = some sn := hflight ▸ hf
    cases hv : validateWord Config.sigCap sn with
    | some e =>
      rw [engineStep_error hf hv] at hs
      rw [engineStep_error hf' hv] at hs'
      cases hs
      cases hs'
      simpa using hmem
    | none =>
      obtain ⟨i, hd, he⟩ := engineStep_valid hf hv
      obtain ⟨i', hd', he'⟩ := engineStep_valid hf' hv
      cases Except.ok.inj (hd.symm.trans hd')
      rw [he] at hs
      rw [he'] at hs'
      cases hs
      cases hs'
      simp [hmem]

end Sys2Proof.Proofs
end

section
/-! SUPPORT. Ranges of words: what a lookup and a word of the same region read as after a range of writes, a range of words a
memory already holds, and a loop of word writes as one range (spec/00_scope.md R13). -/

namespace Sys2Proof.Machine

open Sys2Proof.Statements

/-! ## Reading after a range of writes -/

theorem Memory.lookup_setRange (m : Memory) (r : Region) (first n : Nat) (f : Nat → Word) (a : Nat) :
    (m.setRange r first n f).lookup a =
      if r.wordAddr first ≤ a ∧ a < r.wordAddr first + 4 * n then
        some (byteLane (f ((a - r.wordAddr first) / 4)) ((a - r.wordAddr first) % 4))
      else m.lookup a :=
  Memory.lookup_writeBytes ..

/-- A word of the region outside the words written is unchanged. -/
theorem Memory.get_setRange_of_outside (m : Memory) (r : Region) {first n i : Nat} (f : Nat → Word)
    (h : i < first ∨ first + n ≤ i) : (m.setRange r first n f).get r i = m.get r i :=
  Memory.get_setRange_outside _ _ _ _ _ _ _ (by unfold Region.wordAddr; omega)

/-- The bytes outside a list of ranges, range by range. -/
theorem inRanges_cons_eq_false_iff_outside (r : Region) (first n : Nat) (rs : List WordRange) (a : Nat) :
    inRanges (⟨r, first, n⟩ :: rs) a = false ↔ Outside r first n a ∧ inRanges rs a = false := by
  rw [inRanges_cons_eq_false_iff, Outside]
  unfold Region.wordAddr
  rw [Nat.mul_add, Nat.add_assoc]

/-! ## Words a memory already holds -/

/-- The `n` words of region `r` from word `first` on have been written, and word `first + i` holds `f i`. -/
def Memory.Holds (m : Memory) (r : Region) (first n : Nat) (f : Nat → Word) : Prop :=
  ∀ a, r.wordAddr first ≤ a → a < r.wordAddr first + 4 * n →
    m.lookup a = some (byteLane (f ((a - r.wordAddr first) / 4)) ((a - r.wordAddr first) % 4))

theorem Memory.holds_setRange (m : Memory) (r : Region) (first n : Nat) (f : Nat → Word) :
    (m.setRange r first n f).Holds r first n f := fun a hlo hhi => by
  rw [Memory.lookup_setRange, if_pos ⟨hlo, hhi⟩]

/-- Writes to other words of the region keep the words held. -/
theorem Memory.Holds.setRange_of_disjoint {m : Memory} {r : Region} {first n : Nat} {f : Nat → Word}
    (h : m.Holds r first n f) {first' n' : Nat} (g : Nat → Word) (hd : first + n ≤ first' ∨ first' + n' ≤ first) :
    (m.setRange r first' n' g).Holds r first n f := fun a hlo hhi => by
  rw [Memory.lookup_setRange, if_neg (by unfold Region.wordAddr at *; omega), h a hlo hhi]

/-- Writing the words a memory already holds leaves it as it is. -/
theorem Memory.Holds.setRange_eq_self {m : Memory} {r : Region} {first n : Nat} {f g : Nat → Word}
    (h : m.Holds r first n f) (hm : m.wf) (hfg : ∀ i < n, g i = f i) : m.setRange r first n g = m := by
  refine Memory.ext_of_lookup (Memory.setRange_wf hm ..) hm fun a => ?_
  rw [Memory.lookup_setRange]
  split_ifs with ha
  · rw [h a ha.1 ha.2, hfg _ (by omega)]
  · rfl

/-! ## A loop of word writes is one range of writes (R13) -/

theorem forLoop_zero_succ (n : Nat) (body : Nat → Memory → Memory) (m : Memory) :
    forLoop 0 (n + 1) body m = body n (forLoop 0 n body m) := by
  simp [forLoop, List.range'_1_concat]

theorem Memory.setRange_zero {m : Memory} (hm : m.wf) (r : Region) (first : Nat) (f : Nat → Word) :
    m.setRange r first 0 f = m :=
  Memory.Holds.setRange_eq_self (f := f) (fun a hlo hhi => by omega) hm fun _ _ => rfl

theorem Memory.setRange_succ {m : Memory} (hm : m.wf) (r : Region) (first n : Nat) (f : Nat → Word) :
    m.setRange r first (n + 1) f = (m.setRange r first n f).set r (first + n) (f n) := by
  refine Memory.ext_of_lookup (Memory.setRange_wf hm ..) (Memory.set_wf (Memory.setRange_wf hm ..) ..) fun a => ?_
  change _ = ((m.setRange r first n f).setRange r (first + n) 1 fun _ => f n).lookup a
  have hlast : r.wordAddr (first + n) = r.wordAddr first + 4 * n := by unfold Region.wordAddr; omega
  simp only [Memory.lookup_setRange, hlast]
  by_cases hin : r.wordAddr first + 4 * n ≤ a ∧ a < r.wordAddr first + 4 * n + 4 * 1
  · have hword : (a - r.wordAddr first) / 4 = n := by omega
    have hlane : (a - (r.wordAddr first + 4 * n)) % 4 = (a - r.wordAddr first) % 4 := by omega
    rw [if_pos hin, if_pos (by omega), hword, hlane]
  · rw [if_neg hin]
    exact if_congr (by omega) rfl rfl

/-- A loop that writes word `first + k` in turn, each word computed from the memory then, is one range of writes computed from
the memory before, if no word computed depends on the writes before it. -/
theorem forLoop_set {m : Memory} (hm : m.wf) (r : Region) (first : Nat) {n : Nat} {word : Nat → Memory → Word}
    (h : ∀ k < n, word k (m.setRange r first k fun i => word i m) = word k m) :
    forLoop 0 n (fun k m => m.set r (first + k) (word k m)) m = m.setRange r first n fun i => word i m := by
  induction n with
  | zero => exact (Memory.setRange_zero hm ..).symm
  | succ n ih =>
    rw [forLoop_zero_succ, ih fun k hk => h k (Nat.lt_succ_of_lt hk), h n (Nat.lt_succ_self n),
      Memory.setRange_succ hm]

end Sys2Proof.Machine
end

section
/-! SUPPORT. The effects of `PAD` (spec/41_window_padder.md R89) and `CLR` (spec/43_overlap_add.md R104): the words of the
padded channel, the two pads as words the memory holds, and both commands as their loops. -/

namespace Sys2Proof.Machine

/-- `PAD` passes validation exactly for a channel that fits the block and has a reflection (R79). -/
theorem validate_pad_eq_none_iff (cap : Nat) (ch : Channel) (sn : Snapshot) :
    validate cap (.pad ch) sn = none ↔ sn.length + 4096 ≤ cap ∧ 2048 ≤ sn.length := by
  simp [validate_eq_none_iff, batchOperands, needsChannel, frameOperands, checksLength, checksNorm, capacityExceeded]

/-! ## The words of the padded channel -/

theorem padLeft_get_left (ch : Channel) (m : Memory) {j : Nat} (h : j < 2048) :
    (padLeft ch m).get (.sig ch) j = m.get (.sig ch) (4095 - j) :=
  Memory.get_setRange_inside _ _ _ _ _ _ (Nat.zero_le j) (by omega)

theorem padLeft_get_outside (ch : Channel) (m : Memory) {i : Nat} (h : 2048 ≤ i) :
    (padLeft ch m).get (.sig ch) i = m.get (.sig ch) i :=
  Memory.get_setRange_of_outside _ _ _ (by omega)

theorem padRight_get_right (ch : Channel) (length : Nat) (m : Memory) {j : Nat} (h : j < 2048) :
    (padRight ch length m).get (.sig ch) (2048 + length + j) = m.get (.sig ch) (2047 + length - j) := by
  rw [padRight, Memory.get_setRange_inside _ _ _ _ _ _ (by omega) (by omega), Nat.add_sub_cancel_left]

theorem padRight_get_outside (ch : Channel) (length : Nat) (m : Memory) {i : Nat} (h : i < 2048 + length) :
    (padRight ch length m).get (.sig ch) i = m.get (.sig ch) i :=
  Memory.get_setRange_of_outside _ _ _ (.inl h)

theorem padMemory_get_left (ch : Channel) (sn : Snapshot) (m : Memory) {j : Nat} (h : j < 2048) :
    (padMemory ch sn m).get (.sig ch) j = m.get (.sig ch) (4095 - j) := by
  rw [padMemory, padRight_get_outside ch _ _ (by omega), padLeft_get_left ch m h]

theorem padMemory_get_channel (ch : Channel) (sn : Snapshot) (m : Memory) {i : Nat} (hlo : 2048 ≤ i)
    (hhi : i < 2048 + sn.length) : (padMemory ch sn m).get (.sig ch) i = m.get (.sig ch) i := by
  rw [padMemory, padRight_get_outside ch _ _ hhi, padLeft_get_outside ch m hlo]

/-- The right pad reads the channel alone, so the left pad written first does not reach it. -/
theorem padMemory_get_right (ch : Channel) (sn : Snapshot) (m : Memory) {j : Nat} (hlen : 2048 ≤ sn.length)
    (h : j < 2048) :
    (padMemory ch sn m).get (.sig ch) (2048 + sn.length + j) = m.get (.sig ch) (2047 + sn.length - j) := by
  rw [padMemory, padRight_get_right ch _ _ h, padLeft_get_outside ch m (by omega)]

/-! ## A padded buffer -/

theorem padLeft_wf {m : Memory} (hm : m.wf) (ch : Channel) : (padLeft ch m).wf :=
  Memory.setRange_wf hm (.sig ch) 0 2048 _

theorem padMemory_wf {m : Memory} (hm : m.wf) (ch : Channel) (sn : Snapshot) : (padMemory ch sn m).wf := by
  rw [padMemory, padRight]
  exact Memory.setRange_wf (padLeft_wf hm ch) ..

theorem padMemory_holds_left (ch : Channel) (sn : Snapshot) (m : Memory) :
    (padMemory ch sn m).Holds (.sig ch) 0 2048 fun j => m.get (.sig ch) (4095 - j) := by
  rw [padMemory, padRight, padLeft]
  exact (Memory.holds_setRange m (.sig ch) 0 2048 _).setRange_of_disjoint _ (.inl (by omega))

theorem padMemory_holds_right (ch : Channel) (sn : Snapshot) (m : Memory) :
    (padMemory ch sn m).Holds (.sig ch) (2048 + sn.length) 2048
      fun j => (padLeft ch m).get (.sig ch) (2047 + sn.length - j) := by
  rw [padMemory, padRight]
  exact Memory.holds_setRange (padLeft ch m) (.sig ch) (2048 + sn.length) 2048 _

/-- Padding a padded buffer at the same length rewrites the words it holds: the channel both pads are read from still
stands. -/
theorem padMemory_padMemory {ch : Channel} {sn sn' : Snapshot} {m : Memory} (hm : m.wf) (hlen : 2048 ≤ sn.length)
    (hsame : sn'.length = sn.length) : padMemory ch sn' (padMemory ch sn m) = padMemory ch sn m := by
  have hleft : padLeft ch (padMemory ch sn m) = padMemory ch sn m :=
    (padMemory_holds_left ch sn m).setRange_eq_self (padMemory_wf hm ch sn) fun j hj =>
      padMemory_get_channel ch sn m (by omega) (by omega)
  have hright : padRight ch sn.length (padMemory ch sn m) = padMemory ch sn m :=
    (padMemory_holds_right ch sn m).setRange_eq_self (padMemory_wf hm ch sn) fun j hj =>
      padRight_get_outside ch sn.length (padLeft ch m) (by omega)
  rw [padMemory, hsame, hleft, hright]

/-! ## The loops -/

theorem padLeft_eq_forLoop (ch : Channel) {m : Memory} (hm : m.wf) :
    padLeft ch m = forLoop 0 2048 (fun j m => m.set (.sig ch) j (m.get (.sig ch) (4095 - j))) m := by
  have h := forLoop_set hm (.sig ch) 0 (n := 2048) (word := fun j m => m.get (.sig ch) (4095 - j))
    fun k hk => Memory.get_setRange_of_outside _ _ _ (by omega)
  rw [padLeft, ← h]
  simp only [Nat.zero_add]

theorem padRight_eq_forLoop (ch : Channel) (length : Nat) {m : Memory} (hm : m.wf) :
    padRight ch length m =
      forLoop 0 2048 (fun j m => m.set (.sig ch) (2048 + length + j) (m.get (.sig ch) (2047 + length - j))) m :=
  (forLoop_set hm (.sig ch) (2048 + length) (word := fun j m => m.get (.sig ch) (2047 + length - j))
    fun k hk => Memory.get_setRange_of_outside _ _ _ (by omega)).symm

theorem padMemory_eq_padLoop (ch : Channel) (sn : Snapshot) {m : Memory} (hm : m.wf) :
    padMemory ch sn m = padLoop ch sn m := by
  rw [padMemory, padRight_eq_forLoop ch sn.length (padLeft_wf hm ch), padLeft_eq_forLoop ch hm, padLoop]

theorem clrMemory_eq_clrLoop (ch : Channel) (sn : Snapshot) {m : Memory} (hm : m.wf) :
    clrMemory ch sn m = clrLoop ch sn m := by
  have h := forLoop_set hm (.ola ch) 0 (n := sn.length + 4096) (word := fun _ _ => plusZero) fun _ _ => rfl
  rw [clrMemory, clrLoop, ← h]
  simp only [Nat.zero_add]

end Sys2Proof.Machine
end

section
/-! SUPPORT. The proofs of the statements about `PAD` and about the loops of `PAD` and `CLR`
(spec/41_window_padder.md R89, R93; spec/43_overlap_add.md R104). -/

namespace Sys2Proof.Proofs

open Sys2Proof Sys2Proof.Machine Sys2Proof.Statements

/-- Settles O16: `PAD` completes with its effect, whose write set is the two pads. -/
theorem padWritesBothReflections : Obligations.PadWritesBothReflections := by
  intro ch s sn hf hfits hlen
  refine ⟨padMemory ch sn s.mem, exec_valid hf ((validate_pad_eq_none_iff _ ch sn).mpr ⟨hfits, hlen⟩),
    fun j hj => padMemory_get_left ch sn s.mem hj, fun j hj => padMemory_get_right ch sn s.mem hlen hj,
    fun a hleft hright => ?_⟩
  refine effect_byte_outside (.pad ch) sn s.mem ?_
  rw [writeSet, inRanges_cons_eq_false_iff_outside, inRanges_cons_eq_false_iff_outside]
  exact ⟨hleft, hright, rfl⟩

/-- Settles O17: a `PAD` that fails writes no word, and one that passes writes the two pads beside the channel. -/
theorem padKeepsTheChannel : Obligations.PadKeepsTheChannel := by
  intro ch s t sn hf hexec i hi
  rw [exec_eq_runCommand] at hexec
  cases hexec
  cases hv : validate Config.sigCap (.pad ch) sn with
  | some e => rw [runCommand_error hf hv, State.completeWithError_mem]
  | none =>
    rw [runCommand_valid hf hv, State.complete_mem]
    exact padMemory_get_channel ch sn s.mem (Nat.le_add_right _ i) (Nat.add_lt_add_left hi _)

/-- Settles O18: both runs pass validation at the one length, and the second rewrites what the first left. -/
theorem padTwiceIsPadOnce : Obligations.PadTwiceIsPadOnce := by
  intro ch s sn w hwf hf hlen hfits hlong
  have hfirst := (validate_pad_eq_none_iff Config.sigCap ch sn).mpr ⟨hfits, hlong⟩
  refine ⟨_, _, exec_valid hf hfirst, exec_valid (State.accept_inFlight _ w) ?_, ?_⟩
  · rw [validate_pad_eq_none_iff]
    exact hlen ▸ ⟨hfits, hlong⟩
  · exact padMemory_padMemory hwf hlong (congrArg BitVec.toNat hlen.symm)

/-- Settles O26: no iteration of a loop reads a word that one before it wrote. -/
theorem padAndClrEqualTheirLoops : Obligations.PadAndClrEqualTheirLoops :=
  fun ch sn _ hm => ⟨padMemory_eq_padLoop ch sn hm, clrMemory_eq_clrLoop ch sn hm⟩

end Sys2Proof.Proofs
end

section
/-! SUPPORT. Rounding keeps order, so a number between two that round to one word rounds to that word (spec/00_scope.md R10). -/

namespace Sys2Proof.Machine

/-- A larger number never rounds to a smaller magnitude. -/
theorem F32.RoundsTo.mono {q q' : ℝ} {b r b' r' : Nat} (h : F32.RoundsTo q b r) (h' : F32.RoundsTo q' b' r')
    (hq : q ≤ q') : r ≤ r' := by
  obtain ⟨hlo, hup, hnear⟩ := h
  obtain ⟨hlo', hup', hnear'⟩ := h'
  have hb : b < b' + 1 := F32.unitsOfBits_strictMono.lt_iff_lt.1 ((Nat.cast_lt (α := ℝ)).1 (by linarith))
  rcases (Nat.lt_succ_iff.1 hb).lt_or_eq with hlt | rfl
  · omega
  · rcases hnear with ⟨rfl, -, -⟩ | ⟨rfl, hmid, hodd⟩
    · omega
    · rcases hnear' with ⟨rfl, hmid', heven⟩ | ⟨rfl, -, -⟩
      · have := hodd (by linarith)
        have := heven (by linarith)
        omega
      · exact le_rfl

/-- Every number from 0 on lies between two neighbouring magnitudes and rounds to one of them. -/
theorem F32.exists_roundsTo {q : ℝ} (hq : 0 ≤ q) : ∃ b r, F32.RoundsTo q b r := by
  obtain ⟨n, hn⟩ := exists_nat_gt q
  have habove : ∃ b : Nat, q < F32.unitsOfBits (b + 1) :=
    ⟨n, hn.trans_le (Nat.cast_le.2 ((Nat.le_succ n).trans F32.unitsOfBits_strictMono.le_apply))⟩
  classical
  have hup := Nat.find_spec habove
  have hlo : (F32.unitsOfBits (Nat.find habove) : ℝ) ≤ q := by
    rcases hb : Nat.find habove with _ | b
    · simpa [F32.unitsOfBits] using hq
    · exact not_lt.1 (Nat.find_min habove (by omega))
  generalize Nat.find habove = b at *
  by_cases hkeep : 2 * q ≤ F32.unitsOfBits b + F32.unitsOfBits (b + 1) ∧
      (2 * q = F32.unitsOfBits b + F32.unitsOfBits (b + 1) → b % 2 = 0)
  · exact ⟨b, b, hlo, hup, .inl ⟨rfl, hkeep⟩⟩
  · refine ⟨b, b + 1, hlo, hup, .inr ⟨rfl, ?_, fun htie => ?_⟩⟩
    · by_contra hlt
      exact hkeep ⟨by linarith, fun htie => absurd htie.ge hlt⟩
    · have : ¬ b % 2 = 0 := fun heven => hkeep ⟨htie.le, fun _ => heven⟩
      omega

theorem F32.roundUnits_mono {num num' : Nat} (h : num ≤ num') {den : Nat} (hden : 0 < den) :
    F32.roundUnits num den ≤ F32.roundUnits num' den := by
  obtain ⟨b, r, hr, he⟩ := F32.roundUnits_roundsTo num hden
  obtain ⟨b', r', hr', he'⟩ := F32.roundUnits_roundsTo num' hden
  rw [he, he']
  exact min_le_min_right _ (hr.mono hr' (by gcongr))

/-- A number of units that rounds to a finite magnitude rounds to the word of that magnitude. -/
theorem F32.RoundsTo.isRne {q : ℝ} {b r : Nat} (h : F32.RoundsTo q b r) (hr : r < F32.infBits) :
    IsRne (q / 2 ^ 149) (F32.ofMagnitude false r) := by
  have hq : 0 ≤ q / 2 ^ 149 := div_nonneg ((Nat.cast_nonneg _).trans h.lower) (by positivity)
  have hsmall : q / 2 ^ 149 < 2 ^ 128 - 2 ^ 103 := by
    have := mt h.infBits_le_iff.2 hr.not_ge
    rw [div_lt_iff₀ (by positivity)]
    linarith
  rw [IsRne, if_neg hsmall.not_ge, if_neg (by linarith)]
  exact h.ofMagnitude_nearest hr false _ (by rw [F32.signFactor_false, one_mul])

/-- Where the ends of an interval of ratios round to one finite magnitude, every number of units in it rounds to the magnitude of
every ratio in it. -/
theorem isRne_of_between {q : ℝ} {lo mid hi den : Nat} (hden : 0 < den) (hlomid : lo ≤ mid) (hmidhi : mid ≤ hi)
    (hsame : F32.roundUnits lo den = F32.roundUnits hi den) (hfinite : F32.roundUnits hi den < F32.infBits)
    (hlo : (lo : ℝ) / den ≤ q) (hhi : q ≤ (hi : ℝ) / den) :
    IsRne (q / 2 ^ 149) (F32.ofMagnitude false (F32.roundUnits mid den)) := by
  obtain ⟨b, r, hr⟩ := F32.exists_roundsTo ((by positivity : (0 : ℝ) ≤ (lo : ℝ) / den).trans hlo)
  obtain ⟨_, rlo, hrlo, helo⟩ := F32.roundUnits_roundsTo lo hden
  obtain ⟨_, rhi, hrhi, hehi⟩ := F32.roundUnits_roundsTo hi hden
  have hle := hrlo.mono hr hlo
  have hge := hr.mono hrhi hhi
  have hmidle := F32.roundUnits_mono hlomid hden
  have hmidge := F32.roundUnits_mono hmidhi hden
  have hmid : F32.roundUnits mid den = r := by omega
  rw [hmid]
  exact hr.isRne (by omega)

end Sys2Proof.Machine
end

section
/-! SUPPORT. The fixed-point arithmetic of the window table against real arithmetic (spec/41_window_padder.md R86; log 10): each
operation of Machine/Window.lean with the error it adds, and from them the distance of `Window.rising` from the exact Hann
window. -/

namespace Sys2Proof.Machine

/-! ## Fixed point -/

/-- The fixed-point number `a` lies within `ε` of the real `r`. -/
def Window.Near (a : Nat) (r ε : ℝ) : Prop := |(a : ℝ) / 2 ^ 192 - r| ≤ ε

theorem Window.Near.mono {a : Nat} {r ε δ : ℝ} (h : Window.Near a r ε) (hle : ε ≤ δ) : Window.Near a r δ :=
  le_trans h hle

theorem Window.Near.of_real {a : Nat} {r r' ε δ : ℝ} (h : Window.Near a r ε) (hr : |r - r'| ≤ δ) :
    Window.Near a r' (ε + δ) :=
  (abs_sub_le _ r _).trans (add_le_add h hr)

theorem Window.Near.one_sub {a : Nat} {r ε : ℝ} (h : Window.Near a r ε) (ha : a ≤ Window.one) :
    Window.Near (Window.one - a) (1 - r) ε := by
  unfold Window.Near at *
  rw [Nat.cast_sub ha, abs_sub_comm]
  convert h using 2
  push_cast
  ring

theorem Window.Near.mul_nat {a : Nat} {r ε : ℝ} (h : Window.Near a r ε) (n : Nat) : Window.Near (a * n) (r * n) (ε * n) := by
  unfold Window.Near at *
  rw [Nat.cast_mul, mul_div_right_comm, ← sub_mul, abs_mul, Nat.abs_cast]
  gcongr

/-- A division by a whole number rounds down by less than one unit. -/
theorem Window.Near.div_nat {a : Nat} {r ε : ℝ} (h : Window.Near a r ε) {d : Nat} (hd : 0 < d) :
    Window.Near (a / d) (r / d) (ε / d + 1 / 2 ^ 192) := by
  have hdR : (0 : ℝ) < d := Nat.cast_pos.2 hd
  have hdown : |((a / d : Nat) : ℝ) / 2 ^ 192 - (a : ℝ) / 2 ^ 192 / d| ≤ 1 / 2 ^ 192 := by
    rw [div_right_comm, ← sub_div, abs_div, abs_of_pos (by positivity : (0 : ℝ) < 2 ^ 192)]
    gcongr
    rw [← Nat.floor_div_eq_div (K := ℝ), abs_sub_comm, abs_of_nonneg (sub_nonneg.2 (Nat.floor_le (by positivity)))]
    linarith [Nat.sub_one_lt_floor ((a : ℝ) / d)]
  have hscaled : |(a : ℝ) / 2 ^ 192 / d - r / d| ≤ ε / d := by
    rw [← sub_div, abs_div, abs_of_pos hdR]
    exact div_le_div_of_nonneg_right h hdR.le
  exact (abs_sub_le _ ((a : ℝ) / 2 ^ 192 / d) _).trans (by linarith)

/-- A product adds the errors of its factors and rounds down by less than one unit. -/
theorem Window.Near.mul {a b : Nat} {r s ε δ : ℝ} (ha : Window.Near a r ε) (hb : Window.Near b s δ)
    (hb1 : b ≤ Window.one) (hr0 : 0 ≤ r) (hr1 : r ≤ 1) :
    Window.Near (a * b / Window.one) (r * s) (ε + δ + 1 / 2 ^ 192) := by
  have hbR : (b : ℝ) / 2 ^ 192 ≤ 1 := (div_le_one (by positivity)).2 (by exact_mod_cast hb1)
  have hexact : |(a : ℝ) / 2 ^ 192 * (b / 2 ^ 192) - r * s| ≤ ε + δ := by
    have hsplit : (a : ℝ) / 2 ^ 192 * (b / 2 ^ 192) - r * s =
        (a / 2 ^ 192 - r) * (b / 2 ^ 192) + r * (b / 2 ^ 192 - s) := by ring
    rw [hsplit]
    refine (abs_add_le _ _).trans (add_le_add ?_ ?_)
    · rw [abs_mul, abs_of_nonneg (by positivity : (0 : ℝ) ≤ (b : ℝ) / 2 ^ 192)]
      exact (mul_le_of_le_one_right (abs_nonneg _) hbR).trans ha
    · rw [abs_mul, abs_of_nonneg hr0]
      exact (mul_le_of_le_one_left (abs_nonneg _) hr1).trans hb
  have hprod : Window.Near (a * b) (r * s * Window.one) ((ε + δ) * Window.one) := by
    unfold Window.Near
    have : ((a * b : Nat) : ℝ) / 2 ^ 192 - r * s * Window.one =
        ((a : ℝ) / 2 ^ 192 * (b / 2 ^ 192) - r * s) * Window.one := by
      push_cast
      ring
    rw [this, abs_mul, Nat.abs_cast]
    gcongr
  have h := hprod.div_nat (d := Window.one) (by positivity)
  have hone : (Window.one : ℝ) ≠ 0 := by positivity
  rwa [mul_div_cancel_right₀ _ hone, mul_div_cancel_right₀ _ hone] at h

/-- A product of numbers up to 1 is at most 1. -/
theorem Window.mul_le_one {a b : Nat} (ha : a ≤ Window.one) (hb : b ≤ Window.one) :
    a * b / Window.one ≤ Window.one :=
  Nat.div_le_of_le_mul (Nat.mul_le_mul ha hb)

/-! ## The series of sin(x) / x -/

/-- The nested form of `Window.sinc` in real arithmetic, with `z` = x^2. -/
noncomputable def sincSeries (z : ℝ) : ℕ → ℕ → ℝ
  | 0, _ => 1
  | fuel + 1, k => 1 - z * sincSeries z fuel (k + 1) / ((2 * k * (2 * k + 1) : ℕ) : ℝ)

theorem Window.sinc_le_one (x2 fuel k : Nat) : Window.sinc x2 fuel k ≤ Window.one := by
  cases fuel with
  | zero => exact le_rfl
  | succ fuel => exact Nat.sub_le _ _

/-- The fixed-point series stays within twice the error of its argument: each factor divides the error of the ones inside it by
6 or more. -/
theorem Window.sinc_near {x2 : Nat} {z ε : ℝ} (hx2 : Window.Near x2 z ε) (hx2le : x2 ≤ Window.one) (hz0 : 0 ≤ z)
    (hz1 : z ≤ 1) (hε : 1 / 2 ^ 192 ≤ ε) (fuel : Nat) :
    ∀ k, 1 ≤ k → Window.Near (Window.sinc x2 fuel k) (sincSeries z fuel k) (2 * ε) := by
  induction fuel with
  | zero =>
    intro k _
    have : (0 : ℝ) ≤ 2 * ε := by linarith [(by positivity : (0 : ℝ) ≤ 1 / 2 ^ 192)]
    simpa [Window.Near, Window.sinc, sincSeries] using this
  | succ fuel ih =>
    intro k hk
    have hinner := ih (k + 1) (Nat.le_add_left 1 k)
    have hle := Window.sinc_le_one x2 fuel (k + 1)
    have hd : 6 ≤ 2 * k * (2 * k + 1) := Nat.mul_le_mul (by omega : 2 ≤ 2 * k) (by omega : 3 ≤ 2 * k + 1)
    have hprod := (hx2.mul hinner hle hz0 hz1).div_nat (d := 2 * k * (2 * k + 1)) (by omega)
    refine (hprod.one_sub ((Nat.div_le_self _ _).trans (Window.mul_le_one hx2le hle))).mono ?_
    have hdR : (6 : ℝ) ≤ (2 * k * (2 * k + 1) : ℕ) := by exact_mod_cast hd
    have : (ε + 2 * ε + 1 / 2 ^ 192) / ((2 * k * (2 * k + 1) : ℕ) : ℝ) ≤ (ε + 2 * ε + 1 / 2 ^ 192) / 6 :=
      div_le_div_of_nonneg_left (by linarith [(by positivity : (0 : ℝ) ≤ 1 / 2 ^ 192)]) (by norm_num) hdR
    linarith

open Nat in
/-- The nested form multiplied out. -/
theorem sincSeries_eq_sum (z : ℝ) (fuel i : ℕ) :
    sincSeries z fuel (i + 1) =
      ∑ j ∈ Finset.range (fuel + 1), (-z) ^ j * ((2 * i + 1)! / (2 * i + 1 + 2 * j)! : ℝ) := by
  induction fuel generalizing i with
  | zero => simp [sincSeries, Nat.factorial_ne_zero]
  | succ fuel ih =>
    have hfac : ((2 * (i + 1) + 1)! : ℝ) = (2 * (i + 1) * (2 * (i + 1) + 1) : ℕ) * (2 * i + 1)! := by
      rw [show 2 * (i + 1) + 1 = (2 * i + 1) + 1 + 1 by ring, Nat.factorial_succ, Nat.factorial_succ]
      push_cast
      ring
    rw [sincSeries, ih, Finset.sum_range_succ' _ (fuel + 1), Finset.mul_sum, Finset.sum_div, sub_eq_neg_add,
      ← Finset.sum_neg_distrib]
    congr 1
    · refine Finset.sum_congr rfl fun j _ => ?_
      rw [hfac, show 2 * (i + 1) + 1 + 2 * j = 2 * i + 1 + 2 * (j + 1) by ring]
      field_simp
      ring
    · simp [Nat.factorial_ne_zero]

open Nat in
/-- The alternating series of the sine, cut off after an odd number of terms, is off by less than the next term. -/
theorem abs_mul_sincSeries_sub_sin_le {x : ℝ} (h0 : 0 ≤ x) (h1 : x ≤ 1) (n : ℕ) :
    |x * sincSeries (x * x) (2 * n) 1 - Real.sin x| ≤ 1 / (4 * n + 3)! := by
  have hanti : Antitone fun j : ℕ => x ^ (2 * j + 1) / (2 * j + 1)! := by
    refine antitone_nat_of_succ_le fun j => ?_
    have := pow_le_pow_of_le_one h0 h1 (by omega : 2 * j + 1 ≤ 2 * (j + 1) + 1)
    have : (2 * j + 1)! ≤ (2 * (j + 1) + 1)! := Nat.factorial_le (by omega)
    gcongr
  have hlim := (Real.hasSum_sin x).tendsto_sum_nat
  simp only [mul_div_assoc] at hlim
  have hover := hanti.tendsto_le_alternating_series hlim n
  have hunder := hanti.alternating_series_le_tendsto hlim (n + 1)
  have hsum : x * sincSeries (x * x) (2 * n) 1 =
      ∑ j ∈ Finset.range (2 * n + 1), (-1) ^ j * (x ^ (2 * j + 1) / (2 * j + 1)!) := by
    rw [sincSeries_eq_sum (x * x) (2 * n) 0, Finset.mul_sum]
    refine Finset.sum_congr rfl fun j _ => ?_
    rw [show 2 * 0 + 1 + 2 * j = 2 * j + 1 by ring, neg_pow, ← pow_two, ← pow_mul]
    simp
    ring
  rw [show 2 * (n + 1) = 2 * n + 1 + 1 by ring, Finset.sum_range_succ, ← hsum] at hunder
  rw [← hsum] at hover
  have hnext : x ^ (4 * n + 3) / (4 * n + 3)! ≤ 1 / (4 * n + 3)! := by
    gcongr
    exact pow_le_one₀ h0 h1
  have hodd : (-1 : ℝ) ^ (2 * n + 1) = -1 := Odd.neg_one_pow ⟨n, rfl⟩
  rw [hodd, show 2 * (2 * n + 1) + 1 = 4 * n + 3 by ring] at hunder
  rw [abs_of_nonneg (by linarith)]
  linarith

/-! ## The exact window -/

theorem hann_eq_sin_mul_sin (n : ℕ) : hann n = Real.sin (Real.pi * n / 4096) * Real.sin (Real.pi * n / 4096) := by
  rw [hann, ← pow_two, Real.sin_sq_eq_half_sub]
  ring_nf

/-- Symmetry about the middle (R87). -/
theorem hann_sub_right {n : ℕ} (h : n ≤ 4096) : hann (4096 - n) = hann n := by
  rw [hann, hann, Nat.cast_sub h,
    show 2 * Real.pi * ((4096 : ℕ) - n) / 4096 = 2 * Real.pi - 2 * Real.pi * n / 4096 by push_cast; ring,
    Real.cos_two_pi_sub]

theorem hann_middle_sub {n : ℕ} (h : n ≤ 2048) : hann (2048 - n) = 1 - hann n := by
  rw [hann, hann, Nat.cast_sub h,
    show 2 * Real.pi * ((2048 : ℕ) - n) / 4096 = Real.pi - 2 * Real.pi * n / 4096 by push_cast; ring,
    Real.cos_pi_sub]
  ring

/-! ## The window in fixed point -/

theorem Window.pi_near : Window.Near Window.pi Real.pi (1 / 10 ^ 20) := by
  have hlo := Real.pi_gt_d20
  have hhi := Real.pi_lt_d20
  unfold Window.Near Window.pi
  rw [abs_le]
  constructor
  · norm_num at *
    linarith
  · norm_num at *
    linarith

/-- The angle pi * m / 4096 in fixed point, as `Window.sinSquared` takes it. -/
def Window.angle (m : Nat) : Nat := Window.pi * m / 4096

/-- The sine of the angle in fixed point, as `Window.sinSquared` takes it. -/
def Window.sine (m : Nat) : Nat :=
  Window.angle m * Window.sinc (Window.angle m * Window.angle m / Window.one) 24 1 / Window.one

theorem Window.sinSquared_eq (m : Nat) : Window.sinSquared m = Window.sine m * Window.sine m / Window.one := rfl

theorem Window.angle_le_one {m : Nat} (hm : m ≤ 1024) : Window.angle m ≤ Window.one := by
  refine Nat.div_le_of_le_mul ((Nat.mul_le_mul_left _ hm).trans ?_)
  norm_num

theorem Window.sine_le_one {m : Nat} (hm : m ≤ 1024) : Window.sine m ≤ Window.one :=
  Window.mul_le_one (Window.angle_le_one hm) (Window.sinc_le_one _ 24 1)

theorem Window.sinSquared_le_one {m : Nat} (hm : m ≤ 1024) : Window.sinSquared m ≤ Window.one :=
  Window.mul_le_one (Window.sine_le_one hm) (Window.sine_le_one hm)

section
variable {m : Nat} (hm : m ≤ 1024)
include hm

theorem Window.exactAngle_le_one : Real.pi * m / 4096 ≤ 1 := by
  have hmR : (m : ℝ) ≤ 1024 := by exact_mod_cast hm
  have := mul_le_mul Real.pi_le_four hmR (Nat.cast_nonneg m) (by norm_num)
  linarith

theorem Window.angle_near : Window.Near (Window.angle m) (Real.pi * m / 4096) (1 / 2 ^ 63) := by
  have hmR : (m : ℝ) ≤ 1024 := by exact_mod_cast hm
  refine ((Window.pi_near.mul_nat m).div_nat (d := 4096) (by norm_num)).mono ?_
  norm_num
  linarith

theorem Window.sine_near : Window.Near (Window.sine m) (Real.sin (Real.pi * m / 4096)) (9 / 2 ^ 63) := by
  have hangle := Window.angle_near hm
  have hle := Window.exactAngle_le_one hm
  have h0 : 0 ≤ Real.pi * m / 4096 := by positivity
  have hsquare : Window.Near (Window.angle m * Window.angle m / Window.one) _ (3 / 2 ^ 63) :=
    (hangle.mul hangle (Window.angle_le_one hm) h0 hle).mono (by norm_num)
  have hsinc := Window.sinc_near hsquare (Window.mul_le_one (Window.angle_le_one hm) (Window.angle_le_one hm))
    (mul_nonneg h0 h0) (mul_le_one₀ hle h0 hle) (by norm_num) 24 1 le_rfl
  have htail := abs_mul_sincSeries_sub_sin_le h0 hle 12
  refine ((hangle.mul hsinc (Window.sinc_le_one _ 24 1) h0 hle).of_real htail).mono ?_
  norm_num [Nat.factorial]

/-- The error of the angle, at most 2^-63, grows to at most 2^-58 in the square of the sine. -/
theorem Window.sinSquared_near : Window.Near (Window.sinSquared m) (hann m) (1 / 2 ^ 58) := by
  have hsine := Window.sine_near hm
  have h0 : 0 ≤ Real.sin (Real.pi * m / 4096) :=
    Real.sin_nonneg_of_nonneg_of_le_pi (by positivity) ((Window.exactAngle_le_one hm).trans (by linarith [Real.pi_gt_three]))
  rw [Window.sinSquared_eq, hann_eq_sin_mul_sin]
  exact (hsine.mul hsine (Window.sine_le_one hm) h0 (Real.sin_le_one _)).mono (by norm_num)

end

theorem Window.rising_near {n : Nat} (hn : n ≤ 2048) : Window.Near (Window.rising n) (hann n) (1 / 2 ^ 58) := by
  rw [Window.rising]
  split_ifs with h
  · exact Window.sinSquared_near h
  · have hm : 2048 - n ≤ 1024 := by omega
    have hsub := (Window.sinSquared_near hm).one_sub (Window.sinSquared_le_one hm)
    rwa [← hann_middle_sub (Nat.sub_le _ _), Nat.sub_sub_self hn] at hsub

end Sys2Proof.Machine
end

section
/-! SUPPORT. Every entry of the window table by evaluation: no number within the error of `Window.rising` rounds to another word
(spec/41_window_padder.md R86; log 10). -/

namespace Sys2Proof.Machine

/-- The distance of `Window.rising` from the exact window is at most this, 2^-58 in fixed point. -/
abbrev Window.tolerance : Nat := 2 ^ 134

/-- The magnitude that the fixed-point number `a` rounds to if 2^k <= a: `F32.roundUnits` with the search for the last place begun
at 2^k, which the kernel evaluates several times faster. -/
def Window.bitsFrom (k a : Nat) : Nat :=
  let place := Nat.log2 (a / 2 ^ k) + (k - 66)
  place * 2 ^ 23 + F32.nearestEven (a * 2 ^ 149) (Window.one * 2 ^ place)

theorem Window.lastPlace_eq {k a : Nat} (hk : 66 ≤ k) (ha : 2 ^ k ≤ a) :
    F32.lastPlace (a * 2 ^ 149) Window.one = Nat.log2 (a / 2 ^ k) + (k - 66) := by
  have hscale : a * 2 ^ 149 / Window.one = a / 2 ^ 43 := by
    rw [show Window.one = 2 ^ 43 * 2 ^ 149 by norm_num, Nat.mul_div_mul_right _ _ (by positivity)]
  have hlog : k ≤ Nat.log 2 a := Nat.le_log_of_pow_le (by norm_num) ha
  rw [F32.lastPlace, hscale, Nat.log2_eq_log_two, Nat.log2_eq_log_two, Nat.log_div_base_pow, Nat.log_div_base_pow]
  omega

theorem Window.roundUnits_eq_bitsFrom {k a : Nat} (hk : 66 ≤ k) (ha : 2 ^ k ≤ a) :
    F32.roundUnits (a * 2 ^ 149) Window.one = min (Window.bitsFrom k a) F32.infBits := by
  rw [F32.roundUnits, Window.lastPlace_eq hk ha, Window.bitsFrom]

/-- Entry `n` of the rising half: the ends of the interval of that tolerance round to one magnitude, of at most 1. -/
def Window.settled (k n : Nat) : Bool :=
  let lo := Window.rising n - Window.tolerance
  let hi := Window.rising n + Window.tolerance
  Nat.ble (2 ^ k) lo && Nat.beq (Window.bitsFrom k lo) (Window.bitsFrom k hi) &&
    Nat.ble (Window.bitsFrom k hi) 0x3F800000

theorem Window.roundUnits_of_settled {k n : Nat} (hk : 66 ≤ k) (h : Window.settled k n = true) :
    Window.tolerance ≤ Window.rising n ∧
    F32.roundUnits ((Window.rising n - Window.tolerance) * 2 ^ 149) Window.one =
      F32.roundUnits ((Window.rising n + Window.tolerance) * 2 ^ 149) Window.one ∧
    F32.roundUnits ((Window.rising n + Window.tolerance) * 2 ^ 149) Window.one < F32.infBits := by
  simp only [Window.settled, Bool.and_eq_true, Nat.ble_eq, Nat.beq_eq] at h
  generalize Window.rising n = a at *
  obtain ⟨⟨hlo, hsame⟩, hone⟩ := h
  have hpos := Nat.two_pow_pos k
  rw [Window.roundUnits_eq_bitsFrom hk hlo,
    Window.roundUnits_eq_bitsFrom hk (a := a + Window.tolerance) (by omega), hsame]
  exact ⟨by omega, rfl, (min_le_left _ _).trans_lt (hone.trans_lt (by norm_num))⟩

/-- `WIN[n]` on the rising half. -/
def Window.entry (n : Nat) : Word :=
  F32.ofMagnitude false (F32.roundUnits (Window.rising n * 2 ^ 149) Window.one)

theorem win_eq_entry (n : Nat) : win n = Window.entry (if n ≤ 2048 then n else 4096 - n) := rfl

/-- The exact window lies within the tolerance of the computed one, so it rounds to the settled word. -/
theorem isRne_entry_of_settled {k n : Nat} (hk : 66 ≤ k) (hn : n ≤ 2048) (h : Window.settled k n = true) :
    IsRne (hann n) (Window.entry n) := by
  obtain ⟨htol, hsame, hfinite⟩ := Window.roundUnits_of_settled hk h
  have hnear := abs_le.1 (Window.rising_near hn)
  rw [Window.entry]
  generalize Window.rising n = a at *
  have hrne := isRne_of_between (q := hann n * 2 ^ 149) (by positivity) (Nat.mul_le_mul_right _ (Nat.sub_le a _))
    (Nat.mul_le_mul_right _ (Nat.le_add_right a _)) hsame hfinite (by push_cast [Nat.cast_sub htol]; linarith)
    (by push_cast; linarith)
  rwa [mul_div_cancel_right₀ _ (by positivity)] at hrne

/-! ## The entries, in ranges that bound the evaluation and give `k` -/

theorem Window.settled_below_128 : ∀ n < 127, Window.settled 170 (1 + n) = true := by decide +kernel

theorem Window.settled_below_512 : ∀ n < 384, Window.settled 184 (128 + n) = true := by decide +kernel

theorem Window.settled_below_1024 : ∀ n < 512, Window.settled 189 (512 + n) = true := by decide +kernel

theorem Window.settled_below_1536 : ∀ n < 512, Window.settled 190 (1024 + n) = true := by decide +kernel

theorem Window.settled_to_2048 : ∀ n < 513, Window.settled 191 (1536 + n) = true := by decide +kernel

theorem Window.exists_settled {n : Nat} (h0 : 0 < n) (hn : n ≤ 2048) : ∃ k, 66 ≤ k ∧ Window.settled k n = true := by
  have hshift {first count k : Nat} (hk : 66 ≤ k) (h : ∀ i < count, Window.settled k (first + i) = true)
      (hlo : first ≤ n) (hhi : n < first + count) : ∃ k, 66 ≤ k ∧ Window.settled k n = true :=
    ⟨k, hk, Nat.add_sub_cancel' hlo ▸ h (n - first) (by omega)⟩
  by_cases h1 : n < 128
  · exact hshift (by norm_num) Window.settled_below_128 h0 h1
  by_cases h2 : n < 512
  · exact hshift (by norm_num) Window.settled_below_512 (by omega) h2
  by_cases h3 : n < 1024
  · exact hshift (by norm_num) Window.settled_below_1024 (by omega) h3
  by_cases h4 : n < 1536
  · exact hshift (by norm_num) Window.settled_below_1536 (by omega) h4
  · exact hshift (by norm_num) Window.settled_to_2048 (by omega) (by omega)

/-- The first entry is exact. -/
theorem isRne_entry_zero : IsRne (hann 0) (Window.entry 0) := by
  have hrising : Window.rising 0 = 0 := by simp [Window.rising, Window.sinSquared]
  have h := isRne_ofMagnitude_roundUnits false (0 * 2 ^ 149) (den := Window.one) (by positivity)
  rw [Window.entry, hrising]
  convert h using 1
  simp [hann]

theorem isRne_entry {n : Nat} (hn : n ≤ 2048) : IsRne (hann n) (Window.entry n) := by
  rcases Nat.eq_zero_or_pos n with rfl | hpos
  · exact isRne_entry_zero
  · obtain ⟨k, hk, hsettled⟩ := Window.exists_settled hpos hn
    exact isRne_entry_of_settled hk hn hsettled

end Sys2Proof.Machine
end

section
/-! SUPPORT. The proofs of the statements about the window table (spec/41_window_padder.md R86 to R88). -/

namespace Sys2Proof.Proofs

open Sys2Proof Sys2Proof.Machine Sys2Proof.Statements

/-- Settles O57: the rising half by its entries, the falling half by the symmetry of both the table and the exact window. -/
theorem windowIsCorrectlyRounded : Obligations.WindowIsCorrectlyRounded := by
  intro n hn
  rw [win_eq_entry]
  split_ifs with h
  · exact isRne_entry h
  · exact hann_sub_right hn.le ▸ isRne_entry (by omega)

/-- Settles O58: the fourteen entries, evaluated. -/
theorem windowEntriesAsListed : Obligations.WindowEntriesAsListed := by
  unfold Obligations.WindowEntriesAsListed
  decide +kernel

end Sys2Proof.Proofs
end

section
/-! SUPPORT. The effect of `FWD` frame by frame (spec/42_transform.md R99) and of `INV` (spec/43_overlap_add.md R105): the slots
a batch fills, the samples it reads, and both commands as their loops. -/

namespace Sys2Proof.Machine

/-- `FWD` passes validation exactly for a batch inside the slots whose frames lie in a channel that fits the block (R79). -/
theorem validate_fwd_eq_none_iff (cap : Nat) (ch : Channel) (count slot : Nat) (sn : Snapshot) :
    validate cap (.fwd ch count slot) sn = none ↔
      (count ≤ 256 ∧ slot + count ≤ 256) ∧ sn.length + 4096 ≤ cap ∧ sn.hop ≠ 0 ∧
      (0 < count → (sn.framebase.toNat + count - 1) * sn.hop.toNat ≤ sn.length) := by
  simp [validate_eq_none_iff, batchOperands, needsChannel, frameOperands, checksLength, checksNorm, batchOverflows,
    capacityExceeded, lastFrameOutside]

/-! ## Loops over canonical memories (R13) -/

theorem forLoop_zero_eq_foldl_range (n : Nat) (body : Nat → Memory → Memory) (m : Memory) :
    forLoop 0 n body m = (List.range n).foldl (fun m k => body k m) m := by
  rw [forLoop, Nat.sub_zero, List.range_eq_range']

theorem forLoop_wf {body : Nat → Memory → Memory} (hwf : ∀ k m, m.wf → (body k m).wf) (n : Nat) {m : Memory}
    (hm : m.wf) : (forLoop 0 n body m).wf := by
  induction n with
  | zero => exact hm
  | succ n ih => exact forLoop_zero_succ n body m ▸ hwf n _ ih

/-- Bodies that agree on canonical memories, and keep the canonical form, make one loop. -/
theorem forLoop_congr {body body' : Nat → Memory → Memory} (hwf : ∀ k m, m.wf → (body k m).wf)
    (heq : ∀ k m, m.wf → body k m = body' k m) (n : Nat) {m : Memory} (hm : m.wf) :
    forLoop 0 n body m = forLoop 0 n body' m := by
  induction n with
  | zero => rfl
  | succ n ih => rw [forLoop_zero_succ, forLoop_zero_succ, ← ih, heq n _ (forLoop_wf hwf n hm)]

/-! ## The words of a slot (R42) -/

theorem specWord_zero (slot : Nat) : specWord slot 0 = slot * 8192 := by
  unfold specWord
  ring

theorem specWord_eq_add (slot b : Nat) : specWord slot b = specWord slot 0 + 2 * b := by
  unfold specWord
  ring

theorem spectrumWord_even (x : Fin 4096 → Bin) (b : Nat) : spectrumWord x (2 * b) = (x (Fin.ofNat 4096 b)).re := by
  rw [spectrumWord, if_pos (by omega), Nat.mul_div_cancel_left b two_pos]

theorem spectrumWord_odd (x : Fin 4096 → Bin) (b : Nat) : spectrumWord x (2 * b + 1) = (x (Fin.ofNat 4096 b)).im := by
  rw [spectrumWord, if_neg (by omega), show (2 * b + 1) / 2 = b by omega]

/-- The bins of a slot written in turn are its words written as one range. -/
theorem forLoop_setBin {m : Memory} (hm : m.wf) (c : Channel) (slot : Nat) (x : Fin 4096 → Bin) (n : Nat) :
    forLoop 0 n (fun b m => m.setBin c slot b (x (Fin.ofNat 4096 b))) m =
      m.setRange (.spec c) (specWord slot 0) (2 * n) (spectrumWord x) := by
  induction n with
  | zero => exact (Memory.setRange_zero hm ..).symm
  | succ n ih =>
    rw [forLoop_zero_succ, ih, Memory.setBin, specWord_eq_add slot n, ← spectrumWord_even, ← spectrumWord_odd,
      Nat.mul_succ, Memory.setRange_succ hm, Memory.setRange_succ hm, Nat.add_assoc]

/-- The slots of `SPEC` lie below both channels of `SIG` (R51). -/
theorem specWord_below_sig (c ch : Channel) {slot : Nat} (h : slot < 256) (i : Nat) :
    (Region.spec c).wordAddr (specWord slot 0) + 4 * 8192 ≤ (Region.sig ch).wordAddr i := by
  have hspec : (Region.spec c).start ≤ 0x01800000 := by cases c <;> decide
  have hsig : 0x10000000 ≤ (Region.sig ch).start := by cases ch <;> decide
  unfold Region.wordAddr specWord
  omega

/-! ## One frame of `FWD` -/

section
variable (dft : Transform) (ch : Channel) (o : Nat) {slot : Nat} (m : Memory)

theorem forwardFrame_wf (slot : Nat) {m : Memory} (hm : m.wf) : (forwardFrame dft ch o slot m).wf :=
  Memory.setRange_wf hm ..

/-- The frame's slot holds its transform. -/
theorem forwardFrame_specBin_self (slot : Nat) (b : Fin 4096) :
    (forwardFrame dft ch o slot m).specBin ch slot b.val = dft (windowedFrame ch o m) b := by
  have hb := b.isLt
  rw [Memory.specBin, forwardFrame, specWord_eq_add slot b.val, Nat.add_assoc,
    Memory.get_setRange_inside _ _ _ _ _ _ (by omega) (by omega),
    Memory.get_setRange_inside _ _ _ _ _ _ (by omega) (by omega), Nat.add_sub_cancel_left, Nat.add_sub_cancel_left,
    spectrumWord_even, spectrumWord_odd, Fin.ofNat_val_eq_self]

/-- Every other slot keeps its bins. -/
theorem forwardFrame_specBin_of_ne {t : Nat} (h : t ≠ slot) (b : Fin 4096) :
    (forwardFrame dft ch o slot m).specBin ch t b.val = m.specBin ch t b.val := by
  have hb := b.isLt
  rw [Memory.specBin, forwardFrame, Memory.get_setRange_of_outside _ _ _ (by unfold specWord; omega),
    Memory.get_setRange_of_outside _ _ _ (by unfold specWord; omega), ← Memory.specBin]

theorem forwardFrame_get_sig (hslot : slot < 256) (c : Channel) (i : Nat) :
    (forwardFrame dft ch o slot m).get (.sig c) i = m.get (.sig c) i :=
  Memory.get_setRange_outside _ _ _ _ _ _ _ (.inr (specWord_below_sig ch c hslot i))

/-- A loop over the bins of the transform of the frame, which is read before them. -/
theorem forwardFrame_eq_forLoop (slot : Nat) {m : Memory} (hm : m.wf) :
    forwardFrame dft ch o slot m =
      forLoop 0 4096 (fun b m' => m'.setBin ch slot b (dft (windowedFrame ch o m) (Fin.ofNat 4096 b))) m :=
  (forLoop_setBin hm ch slot (dft (windowedFrame ch o m)) 4096).symm

end

/-! ## A batch of `FWD` -/

section
variable (dft : Transform) (ch : Channel) {count slot : Nat} (sn : Snapshot) (m : Memory)

theorem fwdMemory_eq_forLoop (count slot : Nat) :
    fwdMemory dft ch count slot sn m =
      forLoop 0 count (fun k => forwardFrame dft ch (sn.frameOffset k) (slot + k)) m :=
  (forLoop_zero_eq_foldl_range ..).symm

theorem fwdMemory_succ (count slot : Nat) :
    fwdMemory dft ch (count + 1) slot sn m =
      forwardFrame dft ch (sn.frameOffset count) (slot + count) (fwdMemory dft ch count slot sn m) := by
  rw [fwdMemory_eq_forLoop, forLoop_zero_succ, ← fwdMemory_eq_forLoop]

/-- No frame of a batch inside the slots writes a sample. -/
theorem fwdMemory_get_sig (h : slot + count ≤ 256) (c : Channel) (i : Nat) :
    (fwdMemory dft ch count slot sn m).get (.sig c) i = m.get (.sig c) i := by
  induction count with
  | zero => rfl
  | succ count ih =>
    rw [fwdMemory_succ, forwardFrame_get_sig _ _ _ _ (by omega), ih (by omega)]

/-- So every frame is read from the samples before the command. -/
theorem windowedFrame_fwdMemory (h : slot + count ≤ 256) (c : Channel) (o : Nat) :
    windowedFrame c o (fwdMemory dft ch count slot sn m) = windowedFrame c o m := by
  funext n
  rw [windowedFrame, fwdMemory_get_sig dft ch sn m h, ← windowedFrame]

/-- Slot `slot + k` holds the transform of frame FRAMEBASE + k: frame k put it there, and the frames after fill other
slots. -/
theorem fwdMemory_specBin (h : slot + count ≤ 256) {k : Nat} (hk : k < count) (b : Fin 4096) :
    (fwdMemory dft ch count slot sn m).specBin ch (slot + k) b.val =
      dft (windowedFrame ch (sn.frameOffset k) m) b := by
  induction count with
  | zero => omega
  | succ count ih =>
    rw [fwdMemory_succ]
    by_cases hlast : k = count
    · rw [hlast, forwardFrame_specBin_self, windowedFrame_fwdMemory dft ch sn m (by omega)]
    · rw [forwardFrame_specBin_of_ne _ _ _ _ (by omega), ih (by omega) (by omega)]

theorem fwdMemory_eq_fwdLoop (count slot : Nat) {m : Memory} (hm : m.wf) :
    fwdMemory dft ch count slot sn m = fwdLoop dft ch count slot sn m := by
  rw [fwdMemory_eq_forLoop]
  exact forLoop_congr (fun _ _ => forwardFrame_wf dft ch _ _) (fun _ _ => forwardFrame_eq_forLoop dft ch _ _) count hm

end

/-! ## `INV` as its loop -/

section
variable (idft : Transform) (ch : Channel)

theorem addFrame_wf (o slot : Nat) {m : Memory} (hm : m.wf) : (addFrame idft ch o slot m).wf :=
  Memory.setRange_wf hm ..

/-- A loop over the words of the frame, each sum read before it is written. -/
theorem addFrame_eq_forLoop (o slot : Nat) {m : Memory} (hm : m.wf) :
    addFrame idft ch o slot m =
      forLoop 0 4096
        (fun n m' => m'.set (.ola ch) (o + n) (F32.fadd (m'.get (.ola ch) (o + n))
          (iframe idft (fun b => m.specBin ch slot b.val) (Fin.ofNat 4096 n)))) m := by
  refine (forLoop_set hm (.ola ch) o (word := fun n m' => F32.fadd (m'.get (.ola ch) (o + n))
    (iframe idft (fun b => m.specBin ch slot b.val) (Fin.ofNat 4096 n))) fun n _ => ?_).symm
  rw [Memory.get_setRange_of_outside _ _ _ (.inr le_rfl)]

theorem invMemory_eq_forLoop (count slot : Nat) (sn : Snapshot) (m : Memory) :
    invMemory idft ch count slot sn m =
      forLoop 0 count (fun k => addFrame idft ch (sn.frameOffset k) (slot + k)) m :=
  (forLoop_zero_eq_foldl_range ..).symm

theorem invMemory_eq_invLoop (count slot : Nat) (sn : Snapshot) {m : Memory} (hm : m.wf) :
    invMemory idft ch count slot sn m = invLoop idft ch count slot sn m := by
  rw [invMemory_eq_forLoop]
  exact forLoop_congr (fun _ _ => addFrame_wf idft ch _ _) (fun _ _ => addFrame_eq_forLoop idft ch _ _) count hm

end

end Sys2Proof.Machine
end

section
/-! SUPPORT. The proofs of the statements about `FWD` and about the loops of `FWD` and `INV`
(spec/42_transform.md R99; spec/43_overlap_add.md R105). -/

namespace Sys2Proof.Proofs

open Sys2Proof Sys2Proof.Machine Sys2Proof.Statements

/-- Settles O20: `FWD` completes with its effect, whose write set is the slots of the batch. -/
theorem fwdTransformsEachFrame : Obligations.FwdTransformsEachFrame := by
  intro ch count slot s sn hf hcount hbatch hfits hhop hlast
  refine ⟨fwdMemory Config.fwdDFT ch count slot sn s.mem,
    exec_valid hf ((validate_fwd_eq_none_iff ..).mpr ⟨⟨hcount, hbatch⟩, hfits, hhop, hlast⟩),
    fun k hk b => fwdMemory_specBin Config.fwdDFT ch sn s.mem hbatch hk b, fun a houtside => ?_⟩
  refine effect_byte_outside (.fwd ch count slot) sn s.mem ?_
  rw [writeSet, inRanges_cons_eq_false_iff_outside, specWord_zero]
  exact ⟨houtside, rfl⟩

/-- Settles O28: no iteration of an inner loop reads a word that one before it wrote, and each frame is computed before its
inner loop. -/
theorem fwdAndInvEqualTheirLoops : Obligations.FwdAndInvEqualTheirLoops :=
  fun dft ch count slot sn _ hm _ =>
    ⟨fwdMemory_eq_fwdLoop dft ch sn count slot hm, invMemory_eq_invLoop dft ch count slot sn hm⟩

end Sys2Proof.Proofs
end

section
/-! SUPPORT. The effects of `CLR`, `INV` and `FINISH` word by word (spec/43_overlap_add.md R104 to R108): the words the
accumulator holds after each frame, the words of `OUT`, and `FINISH` as its loop. -/

namespace Sys2Proof.Machine

/-! ## Validation (R79) -/

/-- `CLR` passes validation exactly for a channel that fits the block (R79). -/
theorem validate_clr_eq_none_iff (cap : Nat) (ch : Channel) (sn : Snapshot) :
    validate cap (.clr ch) sn = none ↔ sn.length + 4096 ≤ cap := by
  simp [validate_eq_none_iff, batchOperands, needsChannel, frameOperands, checksLength, checksNorm, capacityExceeded]

/-- `INV` is checked as `FWD` is (R79). -/
theorem validate_inv_eq_none_iff (cap : Nat) (ch : Channel) (count slot : Nat) (sn : Snapshot) :
    validate cap (.inv ch count slot) sn = none ↔
      (count ≤ 256 ∧ slot + count ≤ 256) ∧ sn.length + 4096 ≤ cap ∧ sn.hop ≠ 0 ∧
      (0 < count → (sn.framebase.toNat + count - 1) * sn.hop.toNat ≤ sn.length) :=
  validate_fwd_eq_none_iff cap ch count slot sn

/-- `FINISH` passes validation exactly for a channel that fits the block and a norm that divides (R79). -/
theorem validate_finish_eq_none_iff (cap : Nat) (sn : Snapshot) :
    validate cap .finish sn = none ↔ sn.length + 4096 ≤ cap ∧ normUnusable sn.norm = false := by
  simp [validate_eq_none_iff, batchOperands, needsChannel, frameOperands, checksLength, checksNorm, capacityExceeded]

/-! ## Regions in the order of the map (R51) -/

/-- Writes to a region keep the populated words of every region before it. -/
theorem Memory.get_setRange_of_region_below (m : Memory) {q r : Region} (h : q.stop ≤ r.start) {i : Nat}
    (hi : i < q.words Config.sigCap) (first n : Nat) (f : Nat → Word) : (m.setRange r first n f).get q i = m.get q i := by
  refine Memory.get_setRange_outside m r q first n i f (.inl ?_)
  have := q.wordAddr_words_le_stop sigCap_le
  unfold Region.wordAddr at *
  omega

theorem Region.stop_ola_le_start_out (c : Channel) : (Region.ola c).stop ≤ Region.out.start := by
  cases c <;> decide

theorem Region.stop_spec_le_start_ola (c ch : Channel) : (Region.spec c).stop ≤ (Region.ola ch).start := by
  cases c <;> cases ch <;> decide

/-! ## `CLR` (R104) -/

theorem clrMemory_get (ch : Channel) (sn : Snapshot) (m : Memory) {i : Nat} (h : i < sn.length + 4096) :
    (clrMemory ch sn m).get (.ola ch) i = plusZero := by
  rw [clrMemory, Memory.get_setRange_inside _ _ _ _ _ _ (Nat.zero_le i) (by rwa [Nat.zero_add])]

/-! ## One frame of `INV` (R105) -/

section
variable (idft : Transform) (ch : Channel) (o slot : Nat) (m : Memory)

theorem iframe_ofNat (y : Fin 4096 → Bin) {n : Nat} (h : n < 4096) :
    iframe idft y (Fin.ofNat 4096 n) = F32.fmul (win n) (F32.fdiv (idft y (Fin.ofNat 4096 n)).re 0x45800000#32) := by
  rw [iframe, Fin.val_ofNat, Nat.mod_eq_of_lt h]

/-- A word the frame covers gets the frame's word added. -/
theorem addFrame_get_of_covers {p : Nat} (hlo : o ≤ p) (hhi : p < o + 4096) :
    (addFrame idft ch o slot m).get (.ola ch) p =
      F32.fadd (m.get (.ola ch) p)
        (F32.fmul (win (p - o))
          (F32.fdiv (idft (fun b => m.specBin ch slot b.val) (Fin.ofNat 4096 (p - o))).re 0x45800000#32)) := by
  rw [addFrame, Memory.get_setRange_inside _ _ _ _ _ _ hlo hhi, Nat.add_sub_cancel' hlo, iframe_ofNat _ _ (by omega)]

theorem addFrame_get_of_not_covers {p : Nat} (h : ¬ (o ≤ p ∧ p < o + 4096)) :
    (addFrame idft ch o slot m).get (.ola ch) p = m.get (.ola ch) p :=
  Memory.get_setRange_of_outside _ _ _ (by omega)

/-- No frame writes a spectrum. -/
theorem addFrame_specBin {t : Nat} (ht : t < 256) (b : Fin 4096) :
    (addFrame idft ch o slot m).specBin ch t b.val = m.specBin ch t b.val := by
  have hpopulated : specWord t b.val + 1 < (Region.spec ch).words Config.sigCap := by
    have := b.isLt
    rw [Region.words_spec, specWord]
    omega
  have hbelow := Region.stop_spec_le_start_ola ch ch
  rw [Memory.specBin, addFrame, Memory.get_setRange_of_region_below m hbelow (by omega),
    Memory.get_setRange_of_region_below m hbelow hpopulated, ← Memory.specBin]

end

/-! ## A batch of `INV` (R105, R106) -/

section
variable (idft : Transform) (ch : Channel) {count slot : Nat} (sn : Snapshot) (m : Memory)

theorem invMemory_succ (count slot : Nat) :
    invMemory idft ch (count + 1) slot sn m =
      addFrame idft ch (sn.frameOffset count) (slot + count) (invMemory idft ch count slot sn m) := by
  rw [invMemory_eq_forLoop, forLoop_zero_succ, ← invMemory_eq_forLoop]

/-- Every frame of a batch inside the slots is computed from the spectra before the command. -/
theorem invMemory_specBin {t : Nat} (ht : t < 256) (b : Fin 4096) :
    (invMemory idft ch count slot sn m).specBin ch t b.val = m.specBin ch t b.val := by
  induction count with
  | zero => rfl
  | succ count ih => rw [invMemory_succ, addFrame_specBin _ _ _ _ _ ht, ih]

end

open Sys2Proof.Statements in
/-- Each word takes the frames that cover it one by one, each onto the sum the one before left. -/
theorem invMemory_get (ch : Channel) {count slot : Nat} (s : State) (sn : Snapshot) (h : slot + count ≤ 256) (p : Nat) :
    (invMemory Config.invDFT ch count slot sn s.mem).get (.ola ch) p = overlapSum s sn ch count slot p := by
  induction count with
  | zero => rfl
  | succ count ih =>
    rw [invMemory_succ, overlapSum, List.range_succ, List.foldl_append, ← overlapSum, ← ih (by omega)]
    by_cases hcovers : sn.frameOffset count ≤ p ∧ p < sn.frameOffset count + 4096
    · simp only [addFrame_get_of_covers _ _ _ _ _ hcovers.1 hcovers.2,
        invMemory_specBin _ _ _ _ (show slot + count < 256 by omega)]
      exact (if_pos hcovers).symm
    · rw [addFrame_get_of_not_covers _ _ _ _ _ hcovers]
      exact (if_neg hcovers).symm

/-! ## `FINISH` (R108) -/

/-- Word `j` of `OUT` after `FINISH`, in the interleaved order. -/
def finishWord (norm : Word) (m : Memory) (j : Nat) : Word :=
  F32.fdiv (m.get (.ola (Channel.ofIndex (j % 2))) (2048 + j / 2)) norm

theorem finishMemory_eq (sn : Snapshot) (m : Memory) :
    finishMemory sn m = m.setRange .out 0 (2 * sn.length) (finishWord sn.norm m) := rfl

theorem finishWord_interleaved (norm : Word) (m : Memory) (i : Nat) {c : Nat} (hc : c < 2) :
    finishWord norm m (2 * i + c) = F32.fdiv (m.get (.ola (Channel.ofIndex c)) (2048 + i)) norm := by
  rw [finishWord, show (2 * i + c) % 2 = c by omega, show (2 * i + c) / 2 = i by omega]

theorem finishMemory_get (sn : Snapshot) (m : Memory) (i c : Nat) (hi : i < sn.length) (hc : c < 2) :
    (finishMemory sn m).get .out (2 * i + c) =
      F32.fdiv (m.get (.ola (Channel.ofIndex c)) (2048 + i)) sn.norm := by
  rw [finishMemory_eq, Memory.get_setRange_inside _ _ _ _ _ _ (Nat.zero_le _) (by omega), Nat.sub_zero,
    finishWord_interleaved _ _ _ hc]

/-- The iterations before leave the accumulators, so they write the words of the one pass. -/
theorem forLoop_finish {m : Memory} (hm : m.wf) (norm : Word) (n : Nat) (h : n + 4096 ≤ Config.sigCap) :
    forLoop 0 n
      (fun i m => forLoop 0 2
        (fun c m => m.set .out (2 * i + c) (F32.fdiv (m.get (.ola (Channel.ofIndex c)) (2048 + i)) norm)) m) m =
      m.setRange .out 0 (2 * n) (finishWord norm m) := by
  induction n with
  | zero => exact (Memory.setRange_zero hm ..).symm
  | succ n ih =>
    have hola (c : Channel) (k : Nat) :
        (m.setRange .out 0 k (finishWord norm m)).get (.ola c) (2048 + n) = m.get (.ola c) (2048 + n) :=
      Memory.get_setRange_of_region_below m (Region.stop_ola_le_start_out c) (by rw [Region.words_ola]; omega) ..
    have hset (k : Nat) : (m.setRange .out 0 k (finishWord norm m)).set .out k (finishWord norm m k) =
        m.setRange .out 0 (k + 1) (finishWord norm m) := by
      rw [Memory.setRange_succ hm, Nat.zero_add]
    rw [forLoop_zero_succ, ih (by omega), forLoop_zero_succ, forLoop_zero_succ, forLoop, List.range'_zero, List.foldl_nil,
      hola, ← finishWord_interleaved _ _ _ two_pos, Nat.add_zero, hset, hola,
      ← finishWord_interleaved _ _ _ one_lt_two, hset, Nat.mul_succ]

theorem finishMemory_eq_finishLoop (sn : Snapshot) {m : Memory} (hm : m.wf) (h : sn.length + 4096 ≤ Config.sigCap) :
    finishMemory sn m = finishLoop sn m := by
  rw [finishMemory_eq, finishLoop, forLoop_finish hm sn.norm sn.length h]

end Sys2Proof.Machine
end

section
/-! SUPPORT. The proofs of the statements about `CLR`, `INV` and `FINISH` (spec/43_overlap_add.md R104 to R108). -/

namespace Sys2Proof.Proofs

open Sys2Proof Sys2Proof.Machine Sys2Proof.Statements

/-- Settles O19: `CLR` completes with its effect, whose write set is the padded length. -/
theorem clrZeroesTheBuffer : Obligations.ClrZeroesTheBuffer := by
  intro ch s sn hf hfits
  refine ⟨clrMemory ch sn s.mem, exec_valid hf ((validate_clr_eq_none_iff _ ch sn).mpr hfits),
    fun i hi => clrMemory_get ch sn s.mem hi, fun a houtside => ?_⟩
  refine effect_byte_outside (.clr ch) sn s.mem ?_
  rw [writeSet, inRanges_cons_eq_false_iff_outside]
  exact ⟨houtside, rfl⟩

/-- Settles O21: `INV` completes with its effect, whose frames lie between the first one's start and the last one's end. -/
theorem invAddsFramesInOrder : Obligations.InvAddsFramesInOrder := by
  intro ch count slot s sn hf hcount hbatch hfits hhop hlast
  refine ⟨invMemory Config.invDFT ch count slot sn s.mem,
    exec_valid hf ((validate_inv_eq_none_iff ..).mpr ⟨⟨hcount, hbatch⟩, hfits, hhop, hlast⟩),
    fun p _ => invMemory_get ch s sn hbatch p, ?_, ?_⟩
  · rintro rfl a
    rfl
  · intro a houtside
    refine invMemory_byte_outside _ ch count slot sn s.mem fun hpos => ?_
    have hend : sn.frameOffset (count - 1) + 4096 =
        sn.framebase.toNat * sn.hop.toNat + ((count - 1) * sn.hop.toNat + 4096) := by
      rw [Snapshot.frameOffset]
      ring
    rw [hend, Snapshot.frameOffset, Nat.add_zero]
    exact houtside

/-- Settles O22: `FINISH` completes with its effect, whose write set is the interleaved output. -/
theorem finishInterleavesAndNormalizes : Obligations.FinishInterleavesAndNormalizes := by
  intro s sn hf hfits hexp hsign hzero
  have hnorm : normUnusable sn.norm = false := by
    rw [← Bool.not_eq_true, normUnusable_iff, hsign]
    simp only [hexp, hzero, Bool.false_eq_true, or_self, not_false_eq_true]
  refine ⟨finishMemory sn s.mem, exec_valid hf ((validate_finish_eq_none_iff _ sn).mpr ⟨hfits, hnorm⟩),
    fun i hi => ⟨finishMemory_get sn s.mem i 0 hi two_pos, finishMemory_get sn s.mem i 1 hi one_lt_two⟩,
    fun a houtside => ?_⟩
  refine effect_byte_outside .finish sn s.mem ?_
  rw [writeSet, inRanges_cons_eq_false_iff_outside]
  exact ⟨houtside, rfl⟩

/-- Settles O27: the loops write `OUT` and read the accumulators, which lie below it. -/
theorem finishEqualsItsLoop : Obligations.FinishEqualsItsLoop :=
  fun sn _ hm hfits => finishMemory_eq_finishLoop sn hm hfits

end Sys2Proof.Proofs
end

section
/-! SUPPORT. The roots of unity of order 4096 (spec/42_transform.md R94): the kernel of the reference transforms as powers of
one root, and the sums of those powers that vanish. -/

namespace Sys2Proof.Machine

/-- `e^(2 pi i a / 4096)`. -/
noncomputable def phase (a : ℤ) : ℂ := Complex.exp (2 * Real.pi * Complex.I * a / 4096)

@[simp] theorem phase_zero : phase 0 = 1 := by simp [phase]

theorem phase_add (a b : ℤ) : phase (a + b) = phase a * phase b := by
  rw [phase, phase, phase, ← Complex.exp_add]
  push_cast
  ring_nf

theorem phase_mul_natCast (a : ℤ) (k : ℕ) : phase (a * k) = phase a ^ k := by
  rw [phase, phase, ← Complex.exp_nat_mul]
  push_cast
  ring_nf

theorem phase_eq_exp_ofReal (a : ℤ) : phase a = Complex.exp ((2 * Real.pi * a / 4096 : ℝ) * Complex.I) := by
  rw [phase]
  push_cast
  ring_nf

theorem phase_re (a : ℤ) : (phase a).re = Real.cos (2 * Real.pi * a / 4096) := by
  rw [phase_eq_exp_ofReal, Complex.exp_ofReal_mul_I_re]

theorem star_phase (a : ℤ) : star (phase a) = phase (-a) := by
  rw [phase_eq_exp_ofReal, phase_eq_exp_ofReal, Complex.star_def, ← Complex.exp_conj, map_mul, Complex.conj_ofReal,
    Complex.conj_I]
  push_cast
  ring_nf

theorem phase_eq_one_iff (a : ℤ) : phase a = 1 ↔ 4096 ∣ a := by
  have hscale (n : ℤ) : 2 * Real.pi * Complex.I * a / 4096 = n * (2 * Real.pi * Complex.I) ↔ a = 4096 * n := by
    rw [mul_comm _ (a : ℂ), mul_div_right_comm, mul_left_inj' Complex.two_pi_I_ne_zero, div_eq_iff (by norm_num), mul_comm]
    norm_cast
  rw [phase, Complex.exp_eq_one_iff]
  exact exists_congr hscale

/-- Whole turns do not count. -/
theorem phase_add_of_dvd (a : ℤ) {b : ℤ} (h : 4096 ∣ b) : phase (a + b) = phase a := by
  rw [phase_add, (phase_eq_one_iff b).mpr h, mul_one]

/-- `M` equal steps that make whole turns, each step not a whole turn, sum to 0. -/
theorem sum_phase_eq_zero {a : ℤ} {M : ℕ} (hturns : 4096 ∣ a * M) (hstep : ¬ 4096 ∣ a) :
    ∑ k ∈ Finset.range M, phase (a * k) = 0 := by
  have hgeom := geom_sum_mul (phase a) M
  rw [← phase_mul_natCast, (phase_eq_one_iff _).mpr hturns, sub_self] at hgeom
  simp only [phase_mul_natCast]
  exact (mul_eq_zero.mp hgeom).resolve_right (sub_ne_zero.mpr (mt (phase_eq_one_iff a).mp hstep))

/-- The columns of the transform are orthogonal. -/
theorem sum_phase_sub (n m : Fin 4096) :
    ∑ k : Fin 4096, phase (((n.val : ℤ) - m.val) * k.val) = if m = n then 4096 else 0 := by
  rw [Fin.sum_univ_eq_sum_range fun k => phase (((n.val : ℤ) - m.val) * k)]
  split_ifs with h
  · simp [h]
  · exact sum_phase_eq_zero (Dvd.intro_left _ rfl) (by omega)

/-! ## The reference transforms (R94) -/

theorem refDFT_eq (z : Fin 4096 → ℂ) (k : Fin 4096) : refDFT z k = ∑ n, z n * phase (-(n.val * k.val)) := by
  refine Finset.sum_congr rfl fun n _ => ?_
  rw [phase]
  push_cast
  ring_nf

theorem exp_eq_phase (k n : ℕ) : Complex.exp (2 * Real.pi * Complex.I * (k * n) / 4096) = phase (n * k) := by
  rw [phase]
  push_cast
  ring_nf

theorem refIDFT_eq (z : Fin 4096 → ℂ) (n : Fin 4096) : refIDFT z n = ∑ k, z k * phase (n.val * k.val) :=
  Finset.sum_congr rfl fun k _ => by rw [exp_eq_phase]

/-- The inverse transform undoes the forward one, up to the factor 4096 (R94). -/
theorem refIDFT_refDFT (z : Fin 4096 → ℂ) (n : Fin 4096) : refIDFT (refDFT z) n = 4096 * z n := by
  have hterm (k m : Fin 4096) : z m * phase (-(m.val * k.val)) * phase (n.val * k.val) =
      z m * phase (((n.val : ℤ) - m.val) * k.val) := by
    rw [mul_assoc, ← phase_add]
    ring_nf
  calc refIDFT (refDFT z) n
      = ∑ k : Fin 4096, ∑ m, z m * phase (((n.val : ℤ) - m.val) * k.val) := by
        simp only [refIDFT_eq, refDFT_eq, Finset.sum_mul, hterm]
    _ = ∑ m, z m * ∑ k : Fin 4096, phase (((n.val : ℤ) - m.val) * k.val) := by
        rw [Finset.sum_comm]
        simp only [Finset.mul_sum]
    _ = 4096 * z n := by
        simp [sum_phase_sub, mul_comm]

/-- The inverse transform without the bins of `S` lacks their components. -/
theorem refIDFT_erase (z : Fin 4096 → ℂ) (S : Finset (Fin 4096)) (n : Fin 4096) :
    refIDFT (fun k => if k ∈ S then 0 else z k) n = refIDFT z n - ∑ k ∈ S, z k * phase (n.val * k.val) := by
  have hterm (k : Fin 4096) : (if k ∈ S then 0 else z k) * phase (n.val * k.val) =
      z k * phase (n.val * k.val) - if k ∈ S then z k * phase (n.val * k.val) else 0 := by
    split_ifs <;> simp
  simp only [refIDFT_eq, hterm, Finset.sum_sub_distrib, Finset.sum_ite_mem, Finset.univ_inter]

end Sys2Proof.Machine
end

section
/-! SUPPORT. The overlap-add gain (spec/43_overlap_add.md R109 to R113): the squared window summed at equal steps, the frames
that cover a position, and the gain in the interior and at the left edge. -/

namespace Sys2Proof.Machine

/-! ## The squared window -/

/-- The squared window is a constant and two cosines. -/
theorem hann_sq_eq (n : ℕ) : hann n ^ 2 = 3 / 8 - (phase n).re / 2 + (phase (2 * n)).re / 8 := by
  have hdouble : 2 * Real.pi * ((2 * n : ℤ) : ℝ) / 4096 = 2 * (2 * Real.pi * n / 4096) := by
    push_cast
    ring
  rw [hann, phase_re, phase_re, hdouble, Real.cos_two_mul, Int.cast_natCast]
  ring

@[simp] theorem hann_zero : hann 0 = 0 := by simp [hann]

theorem hop_pos_of_steps {M hop : ℕ} (hturns : M * hop = 4096) : 0 < hop :=
  Nat.pos_of_ne_zero fun h => by simp [h] at hturns

/-- Over whole turns in equal steps a cosine sums to 0. -/
theorem sum_phase_steps_re {a H M : ℕ} (r : ℕ) (hturns : M * H = 4096) (hpos : 0 < a * H) (hlt : a * H < 4096) :
    ∑ k ∈ Finset.range M, (phase (a * (r + k * H : ℕ))).re = 0 := by
  have hsteps (k : ℕ) : phase (a * (r + k * H : ℕ)) = phase (a * r) * phase ((a * H : ℕ) * k) := by
    rw [← phase_add]
    push_cast
    ring_nf
  rw [← Complex.re_sum, Finset.sum_congr rfl fun k _ => hsteps k, ← Finset.mul_sum, sum_phase_eq_zero, mul_zero,
    Complex.zero_re]
  · exact ⟨a, by rw [← Nat.cast_mul, mul_assoc, mul_comm H, hturns]; push_cast; ring⟩
  · rw [← Nat.cast_ofNat, Int.natCast_dvd_natCast]
    exact Nat.not_dvd_of_pos_of_lt hpos hlt

/-- Three or more equal steps over one turn of the squared window sum to the constant (R110). -/
theorem sum_hann_sq_steps {H M : ℕ} (r : ℕ) (hturns : M * H = 4096) (hM : 3 ≤ M) :
    ∑ k ∈ Finset.range M, hann (r + k * H) ^ 2 = 3 / 8 * M := by
  have hpos : 0 < H := hop_pos_of_steps hturns
  have hlt : 3 * H ≤ 4096 := hturns ▸ Nat.mul_le_mul_right H hM
  have h1 := sum_phase_steps_re (a := 1) r hturns (by omega) (by omega)
  have h2 := sum_phase_steps_re (a := 2) r hturns (by omega) (by omega)
  simp only [Nat.cast_one, one_mul, Nat.cast_ofNat] at h1 h2
  simp only [hann_sq_eq, Finset.sum_add_distrib, Finset.sum_sub_distrib, ← Finset.sum_div, h1, h2, Finset.sum_const,
    Finset.card_range, nsmul_eq_mul]
  ring

/-! ## The frames that cover a position -/

/-- What frame `j` gives to the gain at position `p`. -/
noncomputable def frameGain (hop p j : ℕ) : ℝ :=
  if j * hop ≤ p ∧ p < j * hop + 4096 then hann (p - j * hop) ^ 2 else 0

theorem gain_eq_sum_frameGain (length hop p : ℕ) :
    gain length hop p = ∑ j ∈ Finset.range (frameCount length hop), frameGain hop p j := rfl

theorem frameGain_of_covers {hop p j : ℕ} (hlo : j * hop ≤ p) (hhi : p < j * hop + 4096) :
    frameGain hop p j = hann (p - j * hop) ^ 2 := if_pos ⟨hlo, hhi⟩

/-- A frame that starts at a position or after it gives nothing there: the window starts at 0. -/
theorem frameGain_eq_zero_of_le {hop p j : ℕ} (h : p ≤ j * hop) : frameGain hop p j = 0 := by
  rw [frameGain, Nat.sub_eq_zero_of_le h, hann_zero]
  simp

/-- A frame that ends before a position gives nothing there. -/
theorem frameGain_eq_zero_of_end_le {hop p j : ℕ} (h : j * hop + 4096 ≤ p) : frameGain hop p j = 0 :=
  if_neg (by omega)

/-- The sum over the frames may stop at any frame that starts at the position or after it. -/
theorem sum_frameGain_eq {hop p A B : ℕ} (hA : p ≤ A * hop) (hB : p ≤ B * hop) :
    ∑ j ∈ Finset.range A, frameGain hop p j = ∑ j ∈ Finset.range B, frameGain hop p j := by
  wlog hAB : A ≤ B generalizing A B
  · exact (this hB hA (Nat.le_of_not_le hAB)).symm
  refine Finset.sum_subset (Finset.range_mono hAB) fun j _ hj => frameGain_eq_zero_of_le (hA.trans ?_)
  exact Nat.mul_le_mul_right hop (Nat.le_of_not_lt (mt Finset.mem_range.mpr hj))

/-- The frame `k` hops before the last one that starts at `p` or before it. -/
theorem frameGain_back {hop M p k : ℕ} (hturns : M * hop = 4096) (hk : k < M) (hle : k ≤ p / hop) :
    frameGain hop p (p / hop - k) = hann (p % hop + k * hop) ^ 2 := by
  have hpos : 0 < hop := hop_pos_of_steps hturns
  have hmod := Nat.mod_lt p hpos
  have hsplit := Nat.div_add_mod' p hop
  have hsub := Nat.sub_mul (p / hop) k hop
  have hstart := Nat.mul_le_mul_right hop hle
  have hend : k * hop + hop ≤ M * hop := Nat.succ_mul k hop ▸ Nat.mul_le_mul_right hop hk
  rw [frameGain_of_covers (by omega) (by omega)]
  congr 2
  omega

/-- From `M` hops before it on, the frames end before `p`. -/
theorem frameEnd_le {hop M p k : ℕ} (hturns : M * hop = 4096) (hk : M ≤ k) (hle : k ≤ p / hop) :
    (p / hop - k) * hop + 4096 ≤ p := by
  calc (p / hop - k) * hop + 4096 = (p / hop - k + M) * hop := by rw [Nat.add_mul, hturns]
    _ ≤ p / hop * hop := Nat.mul_le_mul_right hop (by omega)
    _ ≤ p := Nat.div_mul_le_self p hop

/-- Where every frame that could cover `p` exists, the gain is the squared window summed over one turn. -/
theorem gain_eq_sum_hann_sq {length hop M p : ℕ} (hturns : M * hop = 4096) (hfirst : M ≤ p / hop + 1)
    (hlast : p ≤ frameCount length hop * hop) :
    gain length hop p = ∑ k ∈ Finset.range M, hann (p % hop + k * hop) ^ 2 := by
  have hpos : 0 < hop := hop_pos_of_steps hturns
  calc gain length hop p
      = ∑ j ∈ Finset.range (p / hop + 1), frameGain hop p j := by
        exact sum_frameGain_eq hlast (Nat.succ_mul _ hop ▸ (Nat.lt_div_mul_add hpos).le)
    _ = ∑ k ∈ Finset.range (p / hop + 1), frameGain hop p (p / hop - k) := by
        rw [← Finset.sum_range_reflect]
        simp
    _ = ∑ k ∈ Finset.range M, frameGain hop p (p / hop - k) := by
        refine (Finset.sum_subset (Finset.range_mono hfirst) fun k hk hM => frameGain_eq_zero_of_end_le ?_).symm
        exact frameEnd_le hturns (Nat.le_of_not_lt (mt Finset.mem_range.mpr hM))
          (Nat.lt_succ_iff.mp (Finset.mem_range.mp hk))
    _ = ∑ k ∈ Finset.range M, hann (p % hop + k * hop) ^ 2 :=
        Finset.sum_congr rfl fun k hk =>
          frameGain_back hturns (Finset.mem_range.mp hk) (by have := Finset.mem_range.mp hk; omega)

/-! ## The interior and the left edge (R111, R113) -/

theorem frameCount_of_pos {length hop : ℕ} (h : 0 < hop) : frameCount length hop = length / hop + 1 :=
  if_neg h.ne'

/-- Every frame that could cover an interior sample exists (R110, R111). -/
theorem gain_interior {length hop i : ℕ} (hdvd : hop ∣ 4096) (hsteps : 3 ≤ 4096 / hop) (hi : Interior length hop i) :
    gain length hop (2048 + i) = 1536 / (hop : ℝ) := by
  obtain ⟨-, hfirst, hlast⟩ := hi
  have hturns : 4096 / hop * hop = 4096 := Nat.div_mul_cancel hdvd
  have hpos : 0 < hop := Nat.pos_of_dvd_of_pos hdvd (by norm_num)
  have hcovered : 4096 / hop ≤ (2048 + i) / hop + 1 := by
    rw [← Nat.add_div_right _ hpos]
    exact Nat.div_le_div_right (by omega)
  rw [gain_eq_sum_hann_sq hturns hcovered (by rwa [frameCount_of_pos hpos]), sum_hann_sq_steps _ hturns hsteps,
    Nat.cast_div hdvd (by exact_mod_cast hpos.ne')]
  push_cast
  ring

/-- The three frames that cover the first 1024 output samples at hop 1024. -/
theorem gain_edge_eq {length i : ℕ} (hlen : 2048 ≤ length) (hi : i < 1024) :
    gain length 1024 (2048 + i) = hann (2048 + i) ^ 2 + hann (1024 + i) ^ 2 + hann i ^ 2 := by
  have hcount : 2048 + i ≤ frameCount length 1024 * 1024 := by
    rw [frameCount_of_pos (by norm_num)]
    omega
  have hframe (j : ℕ) (hj : j < 3) : frameGain 1024 (2048 + i) j = hann (2048 + i - j * 1024) ^ 2 :=
    frameGain_of_covers (by omega) (by omega)
  rw [gain_eq_sum_frameGain, sum_frameGain_eq (B := 3) hcount (Nat.add_lt_add_left hi 2048).le,
    Finset.sum_range_succ, Finset.sum_range_succ, Finset.sum_range_one,
    hframe 0 (by norm_num), hframe 1 (by norm_num), hframe 2 (by norm_num)]
  simp only [Nat.zero_mul, Nat.sub_zero, Nat.one_mul, show 2048 + i - 1024 = 1024 + i by omega,
    show 2048 + i - 2 * 1024 = i by omega]

/-- At the edge the gain is the interior constant 1.5 less the frame that does not exist (R113). -/
theorem gain_edge {length i : ℕ} (hlen : 2048 ≤ length) (hi : i < 1024) :
    gain length 1024 (2048 + i) = 1.5 - hann (3072 + i) ^ 2 := by
  have hturn := sum_hann_sq_steps (H := 1024) (M := 4) i (by norm_num) (by norm_num)
  simp only [Finset.sum_range_succ, Finset.sum_range_zero, Nat.add_comm i] at hturn
  norm_num at hturn
  rw [gain_edge_eq hlen hi]
  linarith

theorem hann_quarter : hann 1024 = 1 / 2 := by
  rw [hann, show 2 * Real.pi * (1024 : ℕ) / 4096 = Real.pi / 2 by push_cast; ring, Real.cos_pi_div_two]
  norm_num

theorem gain_first_sample {length : ℕ} (hlen : 2048 ≤ length) : gain length 1024 2048 = 1.25 := by
  have h3072 : hann 3072 = 1 / 2 := (hann_sub_right (n := 1024) (by norm_num)).trans hann_quarter
  rw [gain_edge (i := 0) hlen (by norm_num), Nat.add_zero, h3072]
  norm_num

end Sys2Proof.Machine
end

section
/-! SUPPORT. The identity path and the path through the tensor in exact arithmetic (spec/43_overlap_add.md R109, R112;
spec/44_tensor_codec.md R121): a frame, the overlap-added frames, and the component at the six dropped bins. -/

namespace Sys2Proof.Machine

/-! ## One frame of the identity path (R101) -/

section
variable (v : Fin 4096 → ℝ) (y : ℕ → ℝ)

/-- The transforms cancel, so the inverse frame is the frame windowed again. -/
theorem exactIframe_exactSpectrum (n : Fin 4096) : exactIframe (exactSpectrum v) n = hann n.val * v n := by
  rw [exactIframe, exactSpectrum, refIDFT_refDFT, ← Complex.ofReal_ofNat, ← Complex.ofReal_mul, Complex.ofReal_re,
    mul_div_cancel_left₀ _ (by norm_num)]

theorem exactFrame_eq (o : ℕ) (n : Fin 4096) : exactFrame y o n = hann n.val ^ 2 * y (o + n.val) := by
  rw [exactFrame, exactIframe_exactSpectrum, exactWindowed]
  ring

/-! ## Overlap-added frames (R105, R109) -/

theorem overlapAdd_sub (length hop : ℕ) (f g : ℕ → Fin 4096 → ℝ) (p : ℕ) :
    overlapAdd length hop (fun o n => f o n - g o n) p = overlapAdd length hop f p - overlapAdd length hop g p := by
  rw [overlapAdd, overlapAdd, overlapAdd, ← Finset.sum_sub_distrib]
  refine Finset.sum_congr rfl fun j _ => ?_
  split_ifs
  · rfl
  · exact (sub_zero 0).symm

/-- Every frame that covers `p` multiplies the same sample, by its squared window there (R109). -/
theorem exactOla_eq_gain_mul (length hop p : ℕ) : exactOla length hop y p = gain length hop p * y p := by
  rw [exactOla, overlapAdd, gain, Finset.sum_mul]
  refine Finset.sum_congr rfl fun j _ => ?_
  split_ifs with hcovers
  · obtain ⟨hlo, hhi⟩ := hcovers
    rw [exactFrame_eq, Fin.val_ofNat, Nat.mod_eq_of_lt (by omega), Nat.add_sub_cancel' hlo]
  · exact (zero_mul _).symm

end

theorem paddedChannel_channel {length i : ℕ} (x : ℕ → ℝ) (h : i < length) : paddedChannel length x (2048 + i) = x i := by
  rw [paddedChannel, if_neg (by omega), if_pos (by omega), Nat.add_sub_cancel_left]

/-- Every output sample is the channel's times the gain over NORM (R112). -/
theorem exactOut_eq {length i : ℕ} (hop : ℕ) (norm : ℝ) (x : ℕ → ℝ) (h : i < length) :
    exactOut length hop norm x i = x i * gain length hop (2048 + i) / norm := by
  rw [exactOut, exactOla_eq_gain_mul, paddedChannel_channel x h, mul_comm]

/-! ## The spectrum through `PACK` and `UNPACK` (R121) -/

section
variable (v : Fin 4096 → ℝ)

theorem exactSpectrum_eq (k : Fin 4096) : exactSpectrum v k = ∑ m, v m * phase (-(m.val * k.val)) :=
  refDFT_eq ..

/-- The spectrum of real samples is its own conjugate mirror. -/
theorem star_exactSpectrum {j k : Fin 4096} (h : j.val + k.val = 4096) : star (exactSpectrum v j) = exactSpectrum v k := by
  have hmirror (m : Fin 4096) : phase (m.val * j.val) = phase (-(m.val * k.val)) := by
    rw [← phase_add_of_dvd (-(m.val * k.val)) (Dvd.intro_left (m.val : ℤ) rfl)]
    rw [show (j.val : ℤ) = 4096 - k.val by omega]
    ring_nf
  simp only [exactSpectrum_eq, star_sum, star_mul', star_phase, neg_neg, hmirror, Complex.star_def, Complex.conj_ofReal]

theorem mem_droppedBins (k : Fin 4096) : k ∈ droppedBins ↔ k.val < 3 ∨ k.val = 2048 ∨ 4094 ≤ k.val := by
  simp only [droppedBins, Finset.mem_insert, Finset.mem_singleton, Fin.ext_iff]
  have := k.isLt
  omega

theorem exactPacked_eq (x : Fin 4096 → ℂ) (j : Fin 4096) (h : j.val < 2048) :
    exactPacked x j.val = if j.val < 3 then 0 else x j := by
  rw [exactPacked, Fin.ofNat_val_eq_self, ← ite_not]
  exact if_congr (by omega) rfl rfl

/-- The tensor holds bins 3 to 2047, and the mirror of the others is the spectrum of real samples again (R121). -/
theorem exactCodec_exactSpectrum (k : Fin 4096) :
    exactCodec (exactSpectrum v) k = if k ∈ droppedBins then 0 else exactSpectrum v k := by
  have hk := k.isLt
  rw [exactCodec, if_congr (mem_droppedBins k) rfl rfl]
  obtain hdc | ⟨hdc, hlow⟩ | hnyquist | hhigh :
      k.val = 0 ∨ (k.val ≠ 0 ∧ k.val < 2048) ∨ k.val = 2048 ∨ 2048 < k.val := by omega
  · rw [if_pos hdc, if_pos (by omega), exactPacked, if_neg (by norm_num), Complex.zero_re, Complex.ofReal_zero]
  · rw [if_neg hdc, if_pos hlow, exactPacked_eq _ _ hlow]
    exact if_congr (by omega) rfl rfl
  · rw [if_neg (by omega), if_neg (by omega), if_pos hnyquist, if_pos (by omega)]
  · obtain ⟨j, hj⟩ : ∃ j : Fin 4096, j.val + k.val = 4096 := ⟨⟨4096 - k.val, by omega⟩, Nat.sub_add_cancel hk.le⟩
    rw [if_neg (by omega), if_neg (by omega), if_neg (by omega), ← Nat.eq_sub_of_add_eq hj, exactPacked_eq _ _ (by omega),
      apply_ite star, star_zero, star_exactSpectrum v hj]
    exact if_congr (by omega) rfl rfl

/-- The inverse frame of the spectrum without the six bins (R121). -/
theorem codecFrame_eq (y : ℕ → ℝ) (o : ℕ) (n : Fin 4096) :
    codecFrame y o n = exactFrame y o n - hann n.val * droppedComponent (exactWindowed y o) n := by
  rw [codecFrame, exactFrame, exactIframe, exactIframe, funext (exactCodec_exactSpectrum (exactWindowed y o)), refIDFT_erase,
    droppedComponent, Complex.sub_re]
  simp only [exp_eq_phase]
  ring

theorem codecOla_eq (length hop p : ℕ) (y : ℕ → ℝ) :
    codecOla length hop y p =
      gain length hop p * y p -
        overlapAdd length hop (fun o n => hann n.val * droppedComponent (exactWindowed y o) n) p := by
  rw [codecOla, ← exactOla_eq_gain_mul, exactOla, ← overlapAdd_sub]
  congr 1
  funext o n
  exact codecFrame_eq y o n

/-! ## The dropped component (R121) -/

/-- What a bin gives to a sample: half the part at its frequency. -/
theorem re_exactSpectrum_mul_phase (k n : Fin 4096) :
    (exactSpectrum v k * phase (n.val * k.val)).re / 4096 = frequencyPart v k.val n / 2 := by
  have hterm (m : Fin 4096) : (v m * phase (-(m.val * k.val)) * phase (n.val * k.val)).re =
      v m * Real.cos (2 * Real.pi * k.val * (n.val - m.val) / 4096) := by
    rw [mul_assoc, ← phase_add, Complex.re_ofReal_mul, phase_re]
    push_cast
    ring_nf
  rw [exactSpectrum_eq, Finset.sum_mul, Complex.re_sum, Finset.sum_congr rfl fun m _ => hterm m, frequencyPart]
  ring

theorem frequencyPart_zero (n : Fin 4096) : frequencyPart v 0 n / 2 = dcPart v := by
  simp only [frequencyPart, dcPart, Nat.cast_zero, mul_zero, zero_mul, zero_div, Real.cos_zero, mul_one]
  ring

theorem frequencyPart_mirror {f g : ℕ} (h : f + g = 4096) (n : Fin 4096) : frequencyPart v g n = frequencyPart v f n := by
  have hcos (m : Fin 4096) : Real.cos (2 * Real.pi * g * (n.val - m.val) / 4096) =
      Real.cos (2 * Real.pi * f * (n.val - m.val) / 4096) := by
    have hg : (g : ℝ) = 4096 - f := by
      rw [eq_sub_iff_add_eq']
      exact_mod_cast h
    rw [← Real.cos_int_mul_two_pi_sub _ ((n.val : ℤ) - m.val), hg]
    congr 1
    push_cast
    ring
  simp only [frequencyPart, hcos]

theorem frequencyPart_nyquist (n : Fin 4096) : frequencyPart v 2048 n / 2 = nyquistPart v n := by
  have hcos (m : Fin 4096) : Real.cos (2 * Real.pi * (2048 : ℕ) * (n.val - m.val) / 4096) = (-1) ^ (n.val + m.val) := by
    rw [← Real.cos_nat_mul_pi, ← Real.cos_add_nat_mul_two_pi _ m.val]
    congr 1
    push_cast
    ring
  simp only [frequencyPart, nyquistPart, hcos]
  ring

theorem droppedComponent_eq (n : Fin 4096) :
    droppedComponent v n = dcPart v + frequencyPart v 1 n + frequencyPart v 2 n + nyquistPart v n := by
  have hbins : droppedComponent v n = ∑ k ∈ droppedBins, frequencyPart v k.val n / 2 := by
    simp only [droppedComponent, exp_eq_phase, Complex.re_sum, Finset.sum_div, re_exactSpectrum_mul_phase]
  have hsum : ∑ k ∈ droppedBins, frequencyPart v k.val n / 2 =
      frequencyPart v 0 n / 2 + (frequencyPart v 1 n / 2 + (frequencyPart v 2 n / 2 + (frequencyPart v 2048 n / 2 +
        (frequencyPart v 4094 n / 2 + frequencyPart v 4095 n / 2)))) := by
    rw [droppedBins, Finset.sum_insert (by decide), Finset.sum_insert (by decide), Finset.sum_insert (by decide),
      Finset.sum_insert (by decide), Finset.sum_insert (by decide), Finset.sum_singleton]
    rfl
  rw [hbins, hsum, frequencyPart_zero, frequencyPart_nyquist,
    frequencyPart_mirror v (f := 1) (g := 4095) (by norm_num), frequencyPart_mirror v (f := 2) (g := 4094) (by norm_num)]
  ring

end

end Sys2Proof.Machine
end

section
/-! SUPPORT. The proofs of the statements about exact arithmetic (spec/43_overlap_add.md R109 to R113;
spec/44_tensor_codec.md R121). -/

namespace Sys2Proof.Proofs

open Sys2Proof Sys2Proof.Machine Sys2Proof.Statements

/-- Settles O59: the exact path multiplies by the gain, which NORM then divides off. -/
theorem interiorGainIsTheColaConstant : Obligations.InteriorGainIsTheColaConstant := by
  intro L H i hdvd hsteps hi
  have hgain := gain_interior hdvd hsteps hi
  refine ⟨hgain, fun x => ?_⟩
  have hpos : (0 : ℝ) < H := Nat.cast_pos.mpr (Nat.pos_of_dvd_of_pos hdvd (by norm_num))
  obtain ⟨hchannel, -, -⟩ := hi
  rw [exactOut_eq H _ x hchannel, hgain]
  exact mul_div_cancel_right₀ _ (by positivity)

/-- Settles O60: the exact path multiplies by the gain, and the codec takes the six dropped bins off each frame. -/
theorem edgeGainLacksTheMissingFrame : Obligations.EdgeGainLacksTheMissingFrame :=
  ⟨fun L H p y => exactOla_eq_gain_mul y L H p, fun _ H _ norm x hi => exactOut_eq H norm x hi,
    fun _ hL => ⟨fun _ hi => gain_edge hL hi, gain_first_sample hL⟩, exactCodec_exactSpectrum, codecFrame_eq, codecOla_eq,
    droppedComponent_eq⟩

end Sys2Proof.Proofs
end

section
/-! SUPPORT. The tensor codec word by word (spec/44_tensor_codec.md R114, R117): the tensor words `PACK` leaves
and the bins `UNPACK` leaves. -/

namespace Sys2Proof.Machine

/-! ## Validation (R79) -/

/-- `PACK` passes validation exactly for a batch that fits the slots (R79). -/
theorem validate_pack_eq_none_iff (cap count : Nat) (sn : Snapshot) :
    validate cap (.pack count) sn = none ↔ count ≤ 256 := by
  simp [validate_eq_none_iff, batchOperands, needsChannel, frameOperands, checksLength, checksNorm, batchOverflows]

/-- No row of R79 applies to `UNPACK`. -/
theorem validate_unpack (cap : Nat) (sn : Snapshot) : validate cap .unpack sn = none := rfl

/-! ## Tensor and spectra do not overlap (R51) -/

theorem Region.stop_ten_le_start_spec (c : Channel) : Region.ten.stop ≤ (Region.spec c).start := by
  cases c <;> decide

/-- `SPEC` lies above the whole tensor. -/
theorem Memory.specBin_setRange_ten (m : Memory) (f : Nat → Word) (c : Channel) (t b : Nat) :
    (m.setRange .ten 0 Config.tensorWords f).specBin c t b = m.specBin c t b := by
  have hget (i : Nat) : (m.setRange .ten 0 Config.tensorWords f).get (.spec c) i = m.get (.spec c) i := by
    refine Memory.get_setRange_outside m .ten (.spec c) 0 Config.tensorWords i f (.inr ?_)
    have hstop : Region.ten.wordAddr 0 + 4 * Config.tensorWords = Region.ten.stop := rfl
    rw [hstop]
    exact (Region.stop_ten_le_start_spec c).trans (Nat.le_add_right _ _)
  rw [Memory.specBin, hget, hget, ← Memory.specBin]

/-! ## Places in the tensor (R14) -/

theorem tensorIndex_lt {c f t : Nat} (hc : c < 4) (hf : f < 2048) (ht : t < 256) :
    tensorIndex c f t < Config.tensorWords := by
  unfold tensorIndex Config.tensorPlane Config.tensorWords
  omega

/-- A tensor word's channel, bin and time are the digits of its number. -/
theorem eq_tensorIndex_iff {c f t : Nat} (hf : f < 2048) (ht : t < 256) (k : Nat) :
    k = tensorIndex c f t ↔ k / Config.tensorPlane = c ∧ k / 256 % 2048 = f ∧ k % 256 = t := by
  unfold tensorIndex Config.tensorPlane
  omega

theorem tensorHalf_real (m : Memory) (c : Channel) (f t : Nat) :
    tensorHalf m (2 * c.index) f t = (m.specBin c t f).re := by
  cases c <;> rfl

theorem tensorHalf_imag (m : Memory) (c : Channel) (f t : Nat) :
    tensorHalf m (2 * c.index + 1) f t = (m.specBin c t f).im := by
  cases c <;> rfl

open Sys2Proof.Statements in
/-- Channels 0 and 1 of the tensor are the left audio channel's, 2 and 3 the right one's (R43). -/
theorem tensorHalf_eq_half (m : Memory) {c : Nat} (hc : c < 4) (f t : Nat) :
    tensorHalf m c f t = half c (m.specBin (if c < 2 then .left else .right) t f) := by
  interval_cases c <;> rfl

theorem tensorHalf_setRange_ten (m : Memory) (g : Nat → Word) (c f t : Nat) :
    tensorHalf (m.setRange .ten 0 Config.tensorWords g) c f t = tensorHalf m c f t := by
  rw [tensorHalf, Memory.specBin_setRange_ten, ← tensorHalf]

theorem Channel.index_le_one (c : Channel) : c.index ≤ 1 := by
  cases c <;> decide

/-! ## `PACK` (R114) -/

theorem packWord_tensorIndex (count : Nat) (m : Memory) {c f t : Nat} (hf : f < 2048) (ht : t < 256) :
    packWord count m (tensorIndex c f t) = if 3 ≤ f ∧ t < count then tensorHalf m c f t else plusZero := by
  obtain ⟨hchannel, hbin, htime⟩ := (eq_tensorIndex_iff hf ht (tensorIndex c f t)).mp rfl
  rw [packWord, hchannel, hbin, htime]

theorem packMemory_get (count : Nat) (sn : Snapshot) (m : Memory) {c f t : Nat} (hc : c < 4) (hf : f < 2048)
    (ht : t < 256) :
    (packMemory count sn m).get .ten (tensorIndex c f t) =
      if 3 ≤ f ∧ t < count then tensorHalf m c f t else plusZero := by
  have hinside : tensorIndex c f t < 0 + Config.tensorWords := (Nat.zero_add _).symm ▸ tensorIndex_lt hc hf ht
  rw [packMemory, Memory.get_setRange_inside _ _ _ _ _ _ (Nat.zero_le _) hinside, Nat.sub_zero,
    packWord_tensorIndex count m hf ht]

/-- The two tensor channels of an audio channel hold its packed bins. -/
theorem tensorBin_packMemory (count : Nat) (sn : Snapshot) (m : Memory) (c : Channel) {f t : Nat} (hf : f < 2048)
    (ht : t < 256) :
    tensorBin (packMemory count sn m) c f t = if 3 ≤ f ∧ t < count then m.specBin c t f else ⟨plusZero, plusZero⟩ := by
  have hc := Channel.index_le_one c
  rw [tensorBin, packMemory_get _ _ _ (by omega) hf ht, packMemory_get _ _ _ (by omega) hf ht, tensorHalf_real,
    tensorHalf_imag]
  split_ifs <;> rfl

/-! ## `UNPACK` (R117) -/

section
variable (m : Memory) (c : Channel) (t : Nat)

theorem unpackBin_dc : unpackBin m c t 0 = ⟨(tensorBin m c 0 t).re, plusZero⟩ := rfl

theorem unpackBin_nyquist : unpackBin m c t 2048 = ⟨plusZero, plusZero⟩ := rfl

theorem unpackBin_copied {f : Nat} (h0 : 1 ≤ f) (h : f < 2048) : unpackBin m c t f = tensorBin m c f t := by
  rw [unpackBin, if_neg (by omega), if_pos h]

theorem unpackBin_mirrored {f : Nat} (h0 : 1 ≤ f) (h : f < 2048) :
    unpackBin m c t (4096 - f) = ⟨(tensorBin m c f t).re, F32.fneg (tensorBin m c f t).im⟩ := by
  rw [unpackBin, if_neg (by omega), if_neg (by omega), if_neg (by omega), Nat.sub_sub_self (by omega)]

end

/-- Writes to the spectra keep the tensor. -/
theorem tensorBin_setRange_spec (m : Memory) (d c : Channel) (first n : Nat) (g : Nat → Word) {f t : Nat} (hf : f < 2048)
    (ht : t < 256) : tensorBin (m.setRange (.spec d) first n g) c f t = tensorBin m c f t := by
  have hc := Channel.index_le_one c
  have hget {k : Nat} (hk : k < 4) :
      (m.setRange (.spec d) first n g).get .ten (tensorIndex k f t) = m.get .ten (tensorIndex k f t) :=
    Memory.get_setRange_of_region_below m (Region.stop_ten_le_start_spec d) (tensorIndex_lt hk hf ht) first n g
  rw [tensorBin, hget (by omega), hget (by omega), ← tensorBin]

/-- So they keep what `UNPACK` makes of it. -/
theorem unpackBin_setRange_spec (m : Memory) (d c : Channel) (first n : Nat) (g : Nat → Word) {t b : Nat} (ht : t < 256)
    (hb : b < 4096) : unpackBin (m.setRange (.spec d) first n g) c t b = unpackBin m c t b := by
  have hkeep {f : Nat} (hf : f < 2048) := tensorBin_setRange_spec m d c first n g hf ht
  unfold unpackBin
  split_ifs
  · rw [hkeep (by omega)]
  · rw [hkeep (by omega)]
  · rfl
  · rw [hkeep (by omega)]

theorem unpackWord_slot (m : Memory) (c : Channel) (t : Nat) {j : Nat} (hj : j < 8192) :
    unpackWord m c (specWord t 0 + j) = spectrumWord (fun b => unpackBin m c t b.val) j := by
  have hslot : (specWord t 0 + j) / 8192 = t := by rw [specWord_zero]; omega
  have hbin : (specWord t 0 + j) / 2 % 4096 = j / 2 % 4096 := by rw [specWord_zero]; omega
  have hhalf : (specWord t 0 + j) % 2 = j % 2 := by rw [specWord_zero]; omega
  rw [unpackWord, hslot, hbin, hhalf, spectrumWord, Fin.val_ofNat]

theorem unpackChannel_specBin_self (m : Memory) (c : Channel) {t b : Nat} (ht : t < 256) (hb : b < 4096) :
    (unpackChannel c m).specBin c t b = unpackBin m c t b := by
  have hlt : specWord t b + 1 < Config.tensorWords := by unfold specWord Config.tensorWords; omega
  have hget {i : Nat} (hi : i < Config.tensorWords) :
      (unpackChannel c m).get (.spec c) i = unpackWord m c i := by
    rw [unpackChannel, Memory.get_setRange_inside _ _ _ _ _ _ (Nat.zero_le i) (by rwa [Nat.zero_add]), Nat.sub_zero]
  rw [Memory.specBin, hget (by omega), hget hlt, specWord_eq_add, Nat.add_assoc, unpackWord_slot _ _ _ (by omega),
    unpackWord_slot _ _ _ (by omega), spectrumWord_even, spectrumWord_odd, Fin.val_ofNat, Nat.mod_eq_of_lt hb]

/-- The left channel's spectra lie below the right channel's. -/
theorem unpackChannel_right_specBin_left (m : Memory) {t b : Nat} (ht : t < 256) (hb : b < 4096) :
    (unpackChannel .right m).specBin .left t b = m.specBin .left t b := by
  have hlt : specWord t b + 1 < (Region.spec .left).words Config.sigCap := by
    rw [Region.words_spec, specWord]
    omega
  have hbelow : (Region.spec .left).stop ≤ (Region.spec .right).start := le_rfl
  rw [Memory.specBin, unpackChannel, Memory.get_setRange_of_region_below m hbelow (by omega),
    Memory.get_setRange_of_region_below m hbelow hlt, ← Memory.specBin]

/-- Both channels are rebuilt from the tensor before the command, which rebuilding the left one keeps. -/
theorem unpackMemory_specBin (sn : Snapshot) (m : Memory) (c : Channel) {t b : Nat} (ht : t < 256) (hb : b < 4096) :
    (unpackMemory sn m).specBin c t b = unpackBin m c t b := by
  cases c with
  | left => rw [unpackMemory, unpackChannel_right_specBin_left _ ht hb, unpackChannel_specBin_self _ _ ht hb]
  | right =>
    rw [unpackMemory, unpackChannel_specBin_self _ _ ht hb, unpackChannel, unpackBin_setRange_spec _ _ _ _ _ _ ht hb]

end Sys2Proof.Machine
end

section
/-! SUPPORT. The proofs of the statements about `PACK` and `UNPACK` (spec/44_tensor_codec.md R114 to R118). -/

namespace Sys2Proof.Proofs

open Sys2Proof Sys2Proof.Machine Sys2Proof.Statements

/-- Settles O23: `PACK` completes with its effect, whose write set is the tensor. -/
theorem packFillsTheTensor : Obligations.PackFillsTheTensor := by
  intro count s sn hf hcount
  refine ⟨packMemory count sn s.mem, exec_valid hf ((validate_pack_eq_none_iff _ count sn).mpr hcount),
    fun c hc f hbin t ht => ?_, fun a houtside => ?_⟩
  · rw [← tensorHalf_eq_half s.mem hc]
    exact packMemory_get count sn s.mem hc hbin ht
  · refine effect_byte_outside (.pack count) sn s.mem ?_
    rw [writeSet, inRanges_cons_eq_false_iff_outside]
    exact ⟨houtside, rfl⟩

/-- Settles O24: `UNPACK` completes with its effect, whose write set is the spectra of both channels. -/
theorem unpackRebuildsTheSpectra : Obligations.UnpackRebuildsTheSpectra := by
  intro s sn hf
  refine ⟨unpackMemory sn s.mem, exec_valid hf (validate_unpack _ sn), fun c t ht => ⟨?_, ?_, ?_, ?_⟩,
    fun a hleft hright => ?_⟩
  · exact unpackMemory_specBin sn s.mem c ht (by omega)
  · exact unpackMemory_specBin sn s.mem c ht (by omega)
  · intro f hlo hhi
    rw [unpackMemory_specBin sn s.mem c ht (by omega), unpackBin_copied _ _ _ hlo hhi]
    rfl
  · intro f hlo hhi
    rw [unpackMemory_specBin sn s.mem c ht (by omega), unpackBin_mirrored _ _ _ hlo hhi]
    rfl
  · refine effect_byte_outside .unpack sn s.mem ?_
    rw [writeSet, inRanges_cons_eq_false_iff_outside, inRanges_cons_eq_false_iff_outside]
    exact ⟨hleft, hright, rfl⟩

/-- Settles O25: `UNPACK` copies bins 1 to 2047 of the tensor `PACK` left, where the three lowest bins and the slots past the
batch are +0. -/
theorem packThenUnpackRoundTrip : Obligations.PackThenUnpackRoundTrip := by
  intro n s sn hf hn
  refine ⟨_, _, exec_valid hf ((validate_pack_eq_none_iff _ n sn).mpr hn),
    exec_valid (State.accept_inFlight _ _) (validate_unpack _ _), fun c slot hslot => ?_⟩
  simp only [State.complete_mem, State.accept_mem, effect]
  have hbin {b : Nat} (hb : b < 4096) (sn' : Snapshot) :=
    unpackMemory_specBin sn' (packMemory n sn s.mem) c hslot hb
  refine ⟨fun f hlo hhi => ?_, fun f hlow => ?_, ?_, fun f hlo hhi => ?_⟩
  · rw [hbin (by omega), unpackBin_copied _ _ _ (by omega) hhi, tensorBin_packMemory n sn s.mem c hhi hslot]
    exact if_congr (and_iff_right hlo) rfl rfl
  · have hzero : tensorBin (packMemory n sn s.mem) c f slot = ⟨plusZero, plusZero⟩ := by
      rw [tensorBin_packMemory n sn s.mem c (by omega) hslot, if_neg (by omega)]
    rcases Nat.eq_zero_or_pos f with rfl | hpos
    · rw [hbin (by omega), unpackBin_dc, hzero]
    · rw [hbin (by omega), unpackBin_copied _ _ _ hpos (by omega), hzero]
  · rw [hbin (by omega), unpackBin_nyquist]
  · rw [hbin (by omega), hbin (by omega), unpackBin_mirrored _ _ _ hlo hhi, unpackBin_copied _ _ _ hlo hhi, F32.fneg]

end Sys2Proof.Proofs
end

section
/-! SUPPORT. `PACK` and `UNPACK` as their loops (spec/44_tensor_codec.md R114, R117): each loop by the memory that
stands before each of its iterations. -/

namespace Sys2Proof.Machine

/-! ## Loops by the memory before each iteration (R13) -/

/-- A loop goes through the memories `before k`, if iteration `k` leads from each to the next. -/
theorem forLoop_eq_of_steps {lo hi : Nat} {body : Nat → Memory → Memory} (before : Nat → Memory) (hle : lo ≤ hi)
    (hstep : ∀ k, lo ≤ k → k < hi → body k (before k) = before (k + 1)) :
    forLoop lo hi body (before lo) = before hi := by
  obtain ⟨n, rfl⟩ := Nat.exists_eq_add_of_le hle
  rw [forLoop, Nat.add_sub_cancel_left]
  clear hle
  induction n with
  | zero => rfl
  | succ n ih =>
    rw [List.range'_1_concat, List.foldl_append, ih fun k hlo hhi => hstep k hlo (by omega)]
    exact hstep (lo + n) (by omega) (by omega)

/-! ## Writes onto a range of writes -/

theorem Memory.setRange_congr {m : Memory} (hm : m.wf) (r : Region) (first : Nat) {n : Nat} {f g : Nat → Word}
    (h : ∀ i < n, f i = g i) : m.setRange r first n f = m.setRange r first n g := by
  refine Memory.ext_of_lookup (Memory.setRange_wf hm ..) (Memory.setRange_wf hm ..) fun a => ?_
  rw [Memory.lookup_setRange, Memory.lookup_setRange]
  split_ifs
  · rw [h _ (by omega)]
  · rfl

/-- A word written inside a range of writes replaces the range's word. -/
theorem Memory.set_setRange {m : Memory} (hm : m.wf) (r : Region) (first : Nat) {n k : Nat} (hk : k < n) (f : Nat → Word)
    (v : Word) :
    (m.setRange r first n f).set r (first + k) v = m.setRange r first n (Function.update f k v) := by
  refine Memory.ext_of_lookup (Memory.set_wf (Memory.setRange_wf hm ..) ..) (Memory.setRange_wf hm ..) fun a => ?_
  change ((m.setRange r first n f).setRange r (first + k) 1 fun _ => v).lookup a = _
  have hword : r.wordAddr (first + k) = r.wordAddr first + 4 * k := by unfold Region.wordAddr; omega
  simp only [Memory.lookup_setRange, hword]
  by_cases hin : r.wordAddr first + 4 * k ≤ a ∧ a < r.wordAddr first + 4 * k + 4 * 1
  · have hindex : (a - r.wordAddr first) / 4 = k := by omega
    have hlane : (a - (r.wordAddr first + 4 * k)) % 4 = (a - r.wordAddr first) % 4 := by omega
    rw [if_pos hin, if_pos (by omega), hindex, Function.update_self, hlane]
  · rw [if_neg hin]
    refine ite_congr rfl (fun ha => ?_) fun _ => rfl
    rw [Function.update_of_ne (by omega)]

/-- Two adjacent ranges of writes are one. -/
theorem Memory.setRange_append {m : Memory} (hm : m.wf) (r : Region) (first n k : Nat) (f : Nat → Word) :
    m.setRange r first (n + k) f = (m.setRange r first n f).setRange r (first + n) k fun i => f (n + i) := by
  have hwf := Memory.setRange_wf hm r first n f
  induction k with
  | zero => exact (Memory.setRange_zero hwf ..).symm
  | succ k ih => rw [← Nat.add_assoc, Memory.setRange_succ hm, ih, Memory.setRange_succ hwf, Nat.add_assoc]

/-! ## `PACK` (R114) -/

/-- Tensor word `k` in the course of `PACK`: the words that the loops reach before time `t`, bin `f`, channel `c` have been
copied. -/
def packStage (m : Memory) (t f c k : Nat) : Word :=
  let c' := k / Config.tensorPlane
  let f' := k / 256 % 2048
  let t' := k % 256
  if 3 ≤ f' ∧ (t' < t ∨ t' = t ∧ (f' < f ∨ f' = f ∧ c' < c)) then tensorHalf m c' f' t' else plusZero

/-- No bin of frame `count` is copied when the frames before it are. -/
theorem packStage_first (m : Memory) (count : Nat) : packStage m count 3 0 = packWord count m := by
  funext k
  refine if_congr ?_ rfl rfl
  simp only [Config.lowestBin, Config.tensorPlane]
  omega

/-- All bins of a frame are copied when the next frame begins. -/
theorem packStage_last_bin (m : Memory) (t : Nat) : packStage m t 2048 0 = packStage m (t + 1) 3 0 := by
  funext k
  refine if_congr ?_ rfl rfl
  simp only [Config.tensorPlane]
  omega

/-- All channels of a bin are copied when the next bin begins. -/
theorem packStage_last_channel (m : Memory) (t f : Nat) {k : Nat} (hk : k < Config.tensorWords) :
    packStage m t f 4 k = packStage m t (f + 1) 0 k := by
  refine if_congr ?_ rfl rfl
  unfold Config.tensorWords Config.tensorPlane at *
  omega

/-- Copying one half bin leads to the next stage. -/
theorem update_packStage (m : Memory) {t f c : Nat} (hlow : 3 ≤ f) (hf : f < 2048) (ht : t < 256) :
    Function.update (packStage m t f c) (tensorIndex c f t) (tensorHalf m c f t) = packStage m t f (c + 1) := by
  funext k
  by_cases hk : k = tensorIndex c f t
  · obtain ⟨hchannel, hbin, htime⟩ := (eq_tensorIndex_iff hf ht k).mp hk
    rw [hk, Function.update_self, ← hk, packStage, hchannel, hbin, htime, if_pos (by omega)]
  · rw [Function.update_of_ne hk]
    rw [eq_tensorIndex_iff hf ht] at hk
    exact if_congr (by omega) rfl rfl

section
variable {m : Memory} (hm : m.wf)
include hm

theorem set_packStage {t f c : Nat} (hlow : 3 ≤ f) (hf : f < 2048) (ht : t < 256) (hc : c < 4) :
    (m.setRange .ten 0 Config.tensorWords (packStage m t f c)).set .ten (tensorIndex c f t) (tensorHalf m c f t) =
      m.setRange .ten 0 Config.tensorWords (packStage m t f (c + 1)) := by
  have hset := Memory.set_setRange hm .ten 0 (tensorIndex_lt hc hf ht) (packStage m t f c) (tensorHalf m c f t)
  rwa [Nat.zero_add, update_packStage m hlow hf ht] at hset

/-- The four writes of one bin. The writes before left the spectra, so each half bin is read as it was before the command. -/
theorem forLoop_packStage {t f : Nat} (hlow : 3 ≤ f) (hf : f < 2048) (ht : t < 256) :
    forLoop 0 4 (fun c m => m.set .ten (tensorIndex c f t) (tensorHalf m c f t))
        (m.setRange .ten 0 Config.tensorWords (packStage m t f 0)) =
      m.setRange .ten 0 Config.tensorWords (packStage m t (f + 1) 0) := by
  rw [← Memory.setRange_congr hm .ten 0 fun k hk => packStage_last_channel m t f hk]
  exact forLoop_eq_of_steps (fun c => m.setRange .ten 0 Config.tensorWords (packStage m t f c)) (Nat.zero_le 4)
    fun c _ hc => (congrArg _ (tensorHalf_setRange_ten ..)).trans (set_packStage hm hlow hf ht hc)

theorem packMemory_eq_packLoop {count : Nat} (hcount : count ≤ 256) (sn : Snapshot) :
    packMemory count sn m = packLoop count m := by
  have hzeroed : forLoop 0 2097152 (fun k m => m.set .ten k plusZero) m =
      m.setRange .ten 0 Config.tensorWords (packWord 0 m) := by
    have h := forLoop_set hm .ten 0 (n := 2097152) (word := fun _ _ => plusZero) fun _ _ => rfl
    simp only [Nat.zero_add] at h
    rw [h]
    exact Memory.setRange_congr hm .ten 0 fun k _ => (if_neg (by omega)).symm
  rw [packLoop, hzeroed]
  refine (forLoop_eq_of_steps (fun t => packMemory t sn m) (Nat.zero_le count) fun t _ ht => ?_).symm
  simp only [packMemory, ← packStage_first]
  rw [← packStage_last_bin]
  exact forLoop_eq_of_steps (fun f => m.setRange .ten 0 Config.tensorWords (packStage m t f 0)) (by omega)
    fun f hlow hf => forLoop_packStage hm hlow hf (by omega)

end

/-! ## A slot of spectrum words (R42) -/

/-- Every bin of slot `t` of channel `c` written, bin `b` taking `x b`. -/
def Memory.fillSlot (m : Memory) (c : Channel) (t : Nat) (x : Fin 4096 → Bin) : Memory :=
  m.setRange (.spec c) (specWord t 0) 8192 (spectrumWord x)

/-- What one frame of `FWD` leaves, if the transform gives `x` for it. -/
theorem Memory.fillSlot_specBin (m : Memory) (c : Channel) (t : Nat) (x : Fin 4096 → Bin) {b : Nat} (hb : b < 4096) :
    (m.fillSlot c t x).specBin c t b = x ⟨b, hb⟩ :=
  forwardFrame_specBin_self (fun _ => x) c 0 m t ⟨b, hb⟩

/-- A bin written into a slot just filled replaces the slot's bin. -/
theorem Memory.setBin_fillSlot {m : Memory} (hm : m.wf) (c : Channel) (t : Nat) (x : Fin 4096 → Bin) {b : Nat}
    (hb : b < 4096) (v : Bin) : (m.fillSlot c t x).setBin c t b v = m.fillSlot c t (Function.update x ⟨b, hb⟩ v) := by
  rw [Memory.setBin, Memory.fillSlot, specWord_eq_add t b, Memory.set_setRange hm _ _ (by omega), Nat.add_assoc,
    Memory.set_setRange hm _ _ (by omega)]
  refine Memory.setRange_congr hm _ _ fun j hj => ?_
  have hself : Fin.ofNat 4096 b = ⟨b, hb⟩ := Fin.ofNat_val_eq_self ⟨b, hb⟩
  have hcases : j = 2 * b ∨ j = 2 * b + 1 ∨ j / 2 ≠ b := by omega
  rcases hcases with rfl | rfl | hother
  · rw [Function.update_of_ne (by omega), Function.update_self, spectrumWord_even, hself, Function.update_self]
  · rw [Function.update_self, spectrumWord_odd, hself, Function.update_self]
  · have hbin : Fin.ofNat 4096 (j / 2) ≠ ⟨b, hb⟩ := fun h => hother (by
      rwa [Fin.ext_iff, Fin.val_ofNat, Nat.mod_eq_of_lt (by omega)] at h)
    rw [Function.update_of_ne (by omega), Function.update_of_ne (by omega), spectrumWord, spectrumWord,
      Function.update_of_ne hbin]

/-! ## One slot of `UNPACK` (R117) -/

/-- `UNPACK`'s loops over the bins of slot `t` of channel `c`, with the tensor words of a bin read as `tensorBin`. -/
def unpackSlotLoop (c : Channel) (t : Nat) (m : Memory) : Memory :=
  let zeroed := forLoop 0 4096 (fun b m => m.setBin c t b ⟨plusZero, plusZero⟩) m
  let copied := forLoop 0 2048 (fun f m => m.setBin c t f (tensorBin m c f t)) zeroed
  let mirrored := forLoop 1 2048
    (fun f m => m.setBin c t (4096 - f) ⟨(m.specBin c t f).re, F32.fneg (m.specBin c t f).im⟩) copied
  let dc := mirrored.setBin c t 0 ⟨(mirrored.specBin c t 0).re, plusZero⟩
  dc.setBin c t 2048 ⟨plusZero, plusZero⟩

theorem unpackLoop_eq (m : Memory) :
    unpackLoop m = forLoop 0 256 (unpackSlotLoop .right) (forLoop 0 256 (unpackSlotLoop .left) m) := by
  have htwice (body : Nat → Memory → Memory) : forLoop 0 2 body m = body 1 (body 0 m) := rfl
  rw [unpackLoop, htwice]
  rfl

/-- Bin `b` of slot `t` of channel `c` in the course of `UNPACK`, when the bins below `copied` have been copied and those
below `mirrored` mirrored. -/
def unpackStage (m : Memory) (c : Channel) (t copied mirrored : Nat) (b : Fin 4096) : Bin :=
  if b.val < copied then tensorBin m c b.val t
  else if 4096 < b.val + mirrored then
    ⟨(tensorBin m c (4096 - b.val) t).re, F32.fneg (tensorBin m c (4096 - b.val) t).im⟩
  else ⟨plusZero, plusZero⟩

theorem update_unpackStage_copied (m : Memory) (c : Channel) (t : Nat) {f : Nat} (hf : f < 2048) :
    Function.update (unpackStage m c t f 1) ⟨f, by omega⟩ (tensorBin m c f t) = unpackStage m c t (f + 1) 1 := by
  funext b
  by_cases hb : b.val = f
  · subst hb
    rw [Function.update_self, unpackStage, if_pos (Nat.lt_succ_self _)]
  · rw [Function.update_of_ne (fun h => hb (congrArg Fin.val h))]
    exact if_congr (by omega) rfl rfl

theorem update_unpackStage_mirrored (m : Memory) (c : Channel) (t : Nat) {f : Nat} (hlow : 1 ≤ f) (hf : f < 2048) :
    Function.update (unpackStage m c t 2048 f) ⟨4096 - f, by omega⟩
        ⟨(tensorBin m c f t).re, F32.fneg (tensorBin m c f t).im⟩ =
      unpackStage m c t 2048 (f + 1) := by
  funext b
  by_cases hb : b.val = 4096 - f
  · rw [unpackStage, if_neg (by omega), if_pos (by omega), hb, Nat.sub_sub_self (by omega),
      show b = ⟨4096 - f, by omega⟩ from Fin.ext hb, Function.update_self]
  · rw [Function.update_of_ne (fun h => hb (congrArg Fin.val h))]
    exact if_congr Iff.rfl rfl (if_congr (by omega) rfl rfl)

/-- The forced bins make the last stage the result. -/
theorem update_unpackStage_forced (m : Memory) (c : Channel) (t : Nat) :
    Function.update (Function.update (unpackStage m c t 2048 2048) ⟨0, by omega⟩ ⟨(tensorBin m c 0 t).re, plusZero⟩)
        ⟨2048, by omega⟩ ⟨plusZero, plusZero⟩ =
      fun b => unpackBin m c t b.val := by
  funext b
  by_cases hnyquist : b = ⟨2048, by omega⟩
  · subst hnyquist
    rw [Function.update_self]
    exact (unpackBin_nyquist m c t).symm
  have hne : b.val ≠ 2048 := fun h => hnyquist (Fin.ext h)
  rw [Function.update_of_ne hnyquist]
  by_cases hdc : b = ⟨0, by omega⟩
  · subst hdc
    rw [Function.update_self]
    exact (unpackBin_dc m c t).symm
  have hpos : b.val ≠ 0 := fun h => hdc (Fin.ext h)
  rw [Function.update_of_ne hdc, unpackStage, unpackBin, if_neg hpos, if_neg hne]
  exact ite_congr rfl (fun _ => rfl) fun hhigh => if_pos (by omega)

section
variable {m : Memory} (hm : m.wf) (c : Channel) {t : Nat}
include hm

/-- The zeroed slot is the first stage. -/
theorem forLoop_unpackStage_zeroed :
    forLoop 0 4096 (fun b m => m.setBin c t b ⟨plusZero, plusZero⟩) m = m.fillSlot c t (unpackStage m c t 0 1) := by
  have hzero : unpackStage m c t 0 1 = fun _ => ⟨plusZero, plusZero⟩ := by
    funext b
    rw [unpackStage, if_neg (Nat.not_lt_zero _), if_neg (by omega)]
  rw [hzero]
  exact forLoop_setBin hm c t (fun _ => ⟨plusZero, plusZero⟩) 4096

theorem forLoop_unpackStage_copied (ht : t < 256) :
    forLoop 0 2048 (fun f m => m.setBin c t f (tensorBin m c f t)) (m.fillSlot c t (unpackStage m c t 0 1)) =
      m.fillSlot c t (unpackStage m c t 2048 1) := by
  refine forLoop_eq_of_steps (fun f => m.fillSlot c t (unpackStage m c t f 1)) (Nat.zero_le _) fun f _ hf => ?_
  have hread : tensorBin (m.fillSlot c t (unpackStage m c t f 1)) c f t = tensorBin m c f t :=
    tensorBin_setRange_spec m c c _ _ _ hf ht
  rw [hread, Memory.setBin_fillSlot hm c t _ (by omega), update_unpackStage_copied m c t hf]

/-- The mirror reads the lower half, which it does not write. -/
theorem forLoop_unpackStage_mirrored :
    forLoop 1 2048 (fun f m => m.setBin c t (4096 - f) ⟨(m.specBin c t f).re, F32.fneg (m.specBin c t f).im⟩)
        (m.fillSlot c t (unpackStage m c t 2048 1)) =
      m.fillSlot c t (unpackStage m c t 2048 2048) := by
  refine forLoop_eq_of_steps (fun f => m.fillSlot c t (unpackStage m c t 2048 f)) (by omega) fun f hlow hf => ?_
  have hread : (m.fillSlot c t (unpackStage m c t 2048 f)).specBin c t f = tensorBin m c f t :=
    (Memory.fillSlot_specBin m c t _ (by omega)).trans (if_pos hf)
  rw [hread, Memory.setBin_fillSlot hm c t _ (by omega), update_unpackStage_mirrored m c t hlow hf]

theorem unpackSlotLoop_eq (ht : t < 256) :
    unpackSlotLoop c t m = m.fillSlot c t fun b => unpackBin m c t b.val := by
  have hread : (m.fillSlot c t (unpackStage m c t 2048 2048)).specBin c t 0 = tensorBin m c 0 t :=
    (Memory.fillSlot_specBin m c t _ (by omega)).trans (if_pos (Nat.succ_pos 2047))
  rw [unpackSlotLoop, forLoop_unpackStage_zeroed hm, forLoop_unpackStage_copied hm c ht, forLoop_unpackStage_mirrored hm,
    hread, Memory.setBin_fillSlot hm c t _ (by omega), Memory.setBin_fillSlot hm c t _ (by omega),
    update_unpackStage_forced]

/-! ## `UNPACK` (R117) -/

/-- The slots rebuilt in turn are the words of the channel in order. -/
theorem unpackChannel_eq_forLoop : unpackChannel c m = forLoop 0 256 (unpackSlotLoop c) m := by
  have hloop : forLoop 0 256 (unpackSlotLoop c) (m.setRange (.spec c) 0 (specWord 0 0) (unpackWord m c)) =
      m.setRange (.spec c) 0 (specWord 256 0) (unpackWord m c) := by
    refine forLoop_eq_of_steps (fun t => m.setRange (.spec c) 0 (specWord t 0) (unpackWord m c)) (Nat.zero_le _)
      fun t _ ht => ?_
    have hwf := Memory.setRange_wf hm (.spec c) 0 (specWord t 0) (unpackWord m c)
    rw [unpackSlotLoop_eq hwf c ht, specWord_slot_add t 1, Memory.setRange_append hm, Nat.zero_add, Memory.fillSlot]
    refine Memory.setRange_congr hwf _ _ fun j hj => ?_
    rw [unpackWord_slot m c t hj]
    simp only [unpackBin_setRange_spec m c c _ _ _ ht (Fin.is_lt _)]
  have hstart : m.setRange (.spec c) 0 (specWord 0 0) (unpackWord m c) = m := Memory.setRange_zero hm ..
  have hend : specWord 256 0 = Config.tensorWords := rfl
  rw [hstart, hend] at hloop
  exact hloop.symm

theorem unpackMemory_eq_unpackLoop (sn : Snapshot) : unpackMemory sn m = unpackLoop m := by
  have hleft : (unpackChannel .left m).wf := Memory.setRange_wf hm ..
  rw [unpackMemory, unpackLoop_eq, unpackChannel_eq_forLoop hleft, unpackChannel_eq_forLoop hm]

end

end Sys2Proof.Machine
end

section
/-! SUPPORT. The proof of the statement about the loops of `PACK` and `UNPACK` (spec/44_tensor_codec.md R114, R117). -/

namespace Sys2Proof.Proofs

open Sys2Proof Sys2Proof.Machine Sys2Proof.Statements

/-- Settles O29: `PACK` reads the spectra and writes the tensor, `UNPACK` reads the tensor and writes the spectra, where its
mirror reads the half it does not write. -/
theorem packAndUnpackEqualTheirLoops : Obligations.PackAndUnpackEqualTheirLoops :=
  fun _ sn _ hm hcount => ⟨packMemory_eq_packLoop hm hcount sn, unpackMemory_eq_unpackLoop hm sn⟩

end Sys2Proof.Proofs
end

section
/-! SUPPORT. The words a command may write (spec/60_exceptions.md R126; spec/70_reset_and_hazards.md R140): every write set
lies inside the writable memories, and a write inside them keeps a memory canonical and inside them. -/

namespace Sys2Proof.Machine

/-! ## Write sets (R140) -/

/-- The words of a range are populated words of a writable memory. -/
def WordRange.Writable (r : WordRange) : Prop :=
  r.region.isMemory = true ∧ r.first + r.count ≤ r.region.words Config.sigCap

theorem WordRange.Writable.of_le {r : Region} (hr : r.isMemory = true) {first n : Nat}
    (hend : first + n ≤ r.words Config.sigCap) : WordRange.Writable ⟨r, first, n⟩ :=
  ⟨hr, hend⟩

theorem WordRange.Writable.mono {r : Region} {first n first' n' : Nat} (h : WordRange.Writable ⟨r, first, n⟩)
    (hend : first' + n' ≤ first + n) : WordRange.Writable ⟨r, first', n'⟩ :=
  ⟨h.1, hend.trans h.2⟩

/-- The checks of R79 keep the write set of a command inside its memories. -/
theorem writeSet_writable {i : Instr} {sn : Snapshot} (h : validate Config.sigCap i sn = none) :
    ∀ r ∈ writeSet i sn, r.Writable := by
  cases i with
  | nop => exact List.forall_mem_nil _
  | pad ch =>
    obtain ⟨hfits, -⟩ := (validate_pad_eq_none_iff ..).mp h
    rw [writeSet, List.forall_mem_cons, List.forall_mem_singleton]
    exact ⟨.of_le rfl (by rw [Region.words_sig]; omega), .of_le rfl (by rw [Region.words_sig]; omega)⟩
  | clr ch =>
    have hfits := (validate_clr_eq_none_iff ..).mp h
    rw [writeSet, List.forall_mem_singleton]
    exact .of_le rfl ((Nat.zero_add _).trans_le hfits)
  | fwd ch count slot =>
    obtain ⟨⟨-, hbatch⟩, -⟩ := (validate_fwd_eq_none_iff ..).mp h
    rw [writeSet, List.forall_mem_singleton]
    exact .of_le rfl (by rw [Region.words_spec, specWord_zero]; omega)
  | inv ch count slot =>
    obtain ⟨-, hfits, -, hlast⟩ := (validate_inv_eq_none_iff ..).mp h
    rw [writeSet]
    split_ifs with hcount
    · exact List.forall_mem_nil _
    · have hpos : 0 < count := Nat.pos_of_ne_zero hcount
      have hend : sn.frameOffset (count - 1) ≤ sn.length := by
        rw [Snapshot.frameOffset, ← Nat.add_sub_assoc hpos]
        exact hlast hpos
      have hfirst := sn.frameOffset_mono (Nat.zero_le (count - 1))
      rw [List.forall_mem_singleton]
      exact .of_le rfl (by rw [Region.words_ola]; omega)
  | pack count =>
    rw [writeSet, List.forall_mem_singleton]
    exact .of_le rfl (Nat.zero_add _).le
  | unpack =>
    rw [writeSet, List.forall_mem_cons, List.forall_mem_singleton]
    exact ⟨.of_le rfl (Nat.zero_add _).le, .of_le rfl (Nat.zero_add _).le⟩
  | finish =>
    obtain ⟨hfits, -⟩ := (validate_finish_eq_none_iff ..).mp h
    rw [writeSet, List.forall_mem_singleton]
    exact .of_le rfl (by rw [Region.words_out]; omega)

/-- The write set of a command in flight is that of a command that passes validation, or empty. -/
theorem writeSetOf_writable (sn : Snapshot) : ∀ r ∈ writeSetOf Config.sigCap sn, r.Writable := by
  unfold writeSetOf
  split
  · exact List.forall_mem_nil _
  · split_ifs with hv
    · exact List.forall_mem_nil _
    · exact writeSet_writable (Option.not_isSome_iff_eq_none.mp hv)

/-! ## Sound memories -/

/-- What the invariant asks of the memory: it is canonical, and every byte ever written lies in a writable memory (R126). -/
def Memory.Sound (m : Memory) : Prop :=
  m.wf ∧ ∀ c ∈ m, writableOffset Config.sigCap c.1 = true

/-- The bytes of a memory's populated words are writable. -/
theorem writableOffset_of_lt {r : Region} (hr : r.isMemory = true) {a : Nat} (hlo : r.start ≤ a)
    (hhi : a < r.wordAddr (r.words Config.sigCap)) : writableOffset Config.sigCap a = true := by
  have hregion : regionOf Config.sigCap a = some r :=
    (regionOf_eq_some_iff_offsets _ _ _).mpr ⟨hlo, hhi.trans_le (r.wordAddr_words_le_stop sigCap_le), hhi⟩
  rw [writableOffset, hregion]
  exact hr

/-- Whatever bytes are written over a writable range, a sound memory stays sound. -/
theorem Memory.Sound.writeBytes {m : Memory} (hm : m.Sound) {r : WordRange} (hr : r.Writable) (g : Nat → Byte) :
    (m.writeBytes (r.region.wordAddr r.first) (4 * r.count) g).Sound := by
  obtain ⟨hwf, hinside⟩ := hm
  obtain ⟨hmemory, hend⟩ := hr
  refine ⟨Memory.writeBytes_wf hwf _ _ g, fun c hc => ?_⟩
  rcases Memory.mem_writeBytes hc with hold | ⟨hlo, hhi⟩
  · exact hinside c hold
  · unfold Region.wordAddr at hlo hhi
    exact writableOffset_of_lt hmemory (by omega) (by unfold Region.wordAddr; omega)

theorem Memory.Sound.setRange {m : Memory} (hm : m.Sound) {r : Region} {first n : Nat}
    (h : WordRange.Writable ⟨r, first, n⟩) (f : Nat → Word) : (m.setRange r first n f).Sound :=
  hm.writeBytes h _

theorem Memory.Sound.set {m : Memory} (hm : m.Sound) {r : Region} {i : Nat} (hr : r.isMemory = true)
    (hi : i < r.words Config.sigCap) (v : Word) : (m.set r i v).Sound :=
  hm.setRange (first := i) (n := 1) ⟨hr, hi⟩ _

/-- The effect of a command that passes validation writes ranges of its write set. -/
theorem effect_sound {i : Instr} {sn : Snapshot} (h : validate Config.sigCap i sn = none) {m : Memory} (hm : m.Sound) :
    (effect i sn m).Sound := by
  have hset := writeSet_writable h
  cases i with
  | nop => exact hm
  | pad ch =>
    rw [writeSet, List.forall_mem_cons, List.forall_mem_singleton] at hset
    obtain ⟨hleft, hright⟩ := hset
    rw [effect, padMemory, padRight, padLeft]
    exact (hm.setRange hleft _).setRange hright _
  | clr ch =>
    rw [writeSet, List.forall_mem_singleton] at hset
    rw [effect, clrMemory]
    exact hm.setRange hset _
  | fwd ch count slot =>
    rw [writeSet, List.forall_mem_singleton] at hset
    refine List.foldlRecOn _ _ hm fun m hm k hk => hm.setRange (hset.mono ?_) _
    have hk : k < count := List.mem_range.mp hk
    rw [specWord_slot_add]
    omega
  | inv ch count slot =>
    refine List.foldlRecOn _ _ hm fun m hm k hk => ?_
    have hk : k < count := List.mem_range.mp hk
    have hlast := sn.frameOffset_mono (Nat.le_sub_one_of_lt hk)
    rw [writeSet, if_neg (Nat.ne_zero_of_lt hk), List.forall_mem_singleton] at hset
    rw [addFrame]
    exact hm.setRange (hset.mono (by omega)) _
  | pack count =>
    rw [writeSet, List.forall_mem_singleton] at hset
    rw [effect, packMemory]
    exact hm.setRange hset _
  | unpack =>
    rw [writeSet, List.forall_mem_cons, List.forall_mem_singleton] at hset
    obtain ⟨hleft, hright⟩ := hset
    rw [effect, unpackMemory, unpackChannel, unpackChannel]
    exact (hm.setRange hleft _).setRange hright _
  | finish =>
    rw [writeSet, List.forall_mem_singleton] at hset
    rw [effect, finishMemory]
    exact hm.setRange hset _

/-- An abort leaves fresh draws in the write set alone (R140). -/
theorem State.memAfterAbort_sound {s : State} (hm : s.mem.Sound) : (s.memAfterAbort Config.sigCap).Sound := by
  unfold State.memAfterAbort
  cases s.inFlight with
  | none => exact hm
  | some sn =>
    exact List.foldlRecOn _ _ hm fun m hm r hr => hm.writeBytes (writeSetOf_writable sn r hr) _

end Sys2Proof.Machine
end

section
/-! SUPPORT. What one step does to the error record, the interrupt line and the invariant (spec/60_exceptions.md R122 to R131):
the first error is kept or cleared by the writes of R124, completion leaves `irq` at the enable, and every operation keeps the
invariant. -/

namespace Sys2Proof.Machine

open Sys2Proof.Statements

/-! ## The engine's step -/

/-- The engine's step always answers a next state: no command faults or is refused. -/
theorem engineStep_next (s : State) : ∃ t, engineStep s = .next t := by
  cases hf : s.inFlight with
  | none => exact ⟨s, engineStep_idle hf⟩
  | some sn =>
    obtain ⟨t, ht, -⟩ := engineStep_ends hf
    exact ⟨t, ht⟩

/-- The engine's step on a command in flight: completion with the error of its word, or its effect and completion (R80,
R81). -/
theorem engineStep_some_cases {s t : State} {sn : Snapshot} (hf : s.inFlight = some sn) (h : engineStep s = .next t) :
    (∃ e, t = s.completeWithError e sn.cmd) ∨
    (∃ i, validate Config.sigCap i sn = none ∧ t = State.complete { s with mem := effect i sn s.mem }) := by
  rcases engineStep_cases s with ⟨hidle, -⟩ | ⟨sn', hf', hrun⟩
  · simp [hf] at hidle
  cases Option.some.inj (hf.symm.trans hf')
  rcases hrun with ⟨e, -, he⟩ | ⟨i, -, he⟩
  · rw [he] at h
    cases h
    exact .inl ⟨_, rfl⟩
  · rw [he, exec_eq_runCommand] at h
    cases h
    cases hv : validate Config.sigCap i sn with
    | some e => exact .inl ⟨e, runCommand_error hf hv⟩
    | none => exact .inr ⟨i, hv, runCommand_valid hf hv⟩

/-! ## Writes of the register window -/

/-- A transaction whose step writes a register is the word write of the register's offset. -/
theorem headWrites_of_target {cap : Nat} {s : State} {t : Txn} {rest : List Txn} {v : Word} (hp : s.port = t :: rest)
    (ht : Txn.target cap t = some .registers) (hv : t.access = .write v) : HeadWrites s t.addr.toNat v :=
  ⟨rest, by rw [hp, ← Txn.eq_wordWrite ht hv]⟩

theorem regAt_eq_status {a : Nat} (h : regAt a = .status) : a = 0x014 := by
  unfold regAt at h
  split at h
  case h_5 => rfl
  all_goals cases h

/-! ## The error record (R124) -/

/-- `ERR`, `ERRCODE` and `ERRINFO`: what a command error leaves (R81). -/
def State.errorRecord (s : State) : Bool × BitVec 8 × Word := (s.err, s.errcode, s.errinfo)

theorem State.errorRecord_completeWithError {s : State} (h : s.err = true) (e : CmdError) (word : Word) :
    (s.completeWithError e word).errorRecord = s.errorRecord := by
  simp [State.errorRecord, h]

/-- The engine's step keeps the first error (R81, R124). -/
theorem engineStep_errorRecord {s t : State} (hs : s.err = true) (h : engineStep s = .next t) :
    t.errorRecord = s.errorRecord := by
  cases hf : s.inFlight with
  | none =>
    rw [engineStep_idle hf] at h
    cases h
    rfl
  | some sn =>
    rcases engineStep_some_cases hf h with ⟨e, rfl⟩ | ⟨i, -, rfl⟩
    · exact State.errorRecord_completeWithError hs e sn.cmd
    · rfl

/-- A register write leaves the error record, or clears it: a 1 to `STATUS.ERR`, or a soft reset (R26, R140). -/
theorem regWrite_errorRecord (cap : Nat) (s : State) (v : Word) (r : Reg) :
    (regWrite cap s v r).errorRecord = s.errorRecord ∨
    ((regWrite cap s v r).errorRecord = (false, 0, 0) ∧
      ((v.getLsbD 2 = true ∧ r = .status) ∨ (v.getLsbD 0 = true ∧ r = .ctrl))) := by
  cases r with
  | ctrl =>
    cases h : v.getLsbD 0 with
    | false => exact .inl (by rw [regWrite, s.writeCtrl_of_clear h]; rfl)
    | true => exact .inr ⟨congrArg State.errorRecord (s.writeCtrl_of_set h), .inr ⟨rfl, rfl⟩⟩
  | status =>
    cases h : v.getLsbD 2 with
    | false => exact .inl (by rw [regWrite, State.writeStatus_eq, h]; simp [State.errorRecord])
    | true => exact .inr ⟨by rw [regWrite, State.writeStatus_eq, h]; simp [State.errorRecord], .inl ⟨rfl, rfl⟩⟩
  | cmd => exact .inl (by cases h : s.busy <;> simp [regWrite, State.writeCmd, State.errorRecord, h])
  | _ => exact .inl rfl

/-- The host's step leaves the error record, or serves one of the two writes that clear it. -/
theorem hostStep_errorRecord (cap : Nat) (s : State) :
    (hostStep cap s).errorRecord = s.errorRecord ∨
    ((hostStep cap s).errorRecord = (false, 0, 0) ∧
      ∃ v : Word, (v.getLsbD 2 = true ∧ HeadWrites s 0x014 v) ∨ (v.getLsbD 0 = true ∧ HeadWrites s 0x010 v)) := by
  cases hp : s.port with
  | nil => exact .inl (by rw [hostStep, hp])
  | cons t rest =>
    rw [hostStep_cons hp]
    rcases Txn.effect_cases cap t { s with port := rest } with he | ⟨v, hv, ht, he⟩ | ⟨v, r, -, -, -, he⟩ <;> rw [he]
    · exact .inl rfl
    · have hhead := headWrites_of_target hp ht hv
      rcases regWrite_errorRecord cap { s with port := rest } v (regAt t.addr.toNat) with
        hkept | ⟨hcleared, ⟨hbit, hr⟩ | ⟨hbit, hr⟩⟩
      · exact .inl hkept
      · exact .inr ⟨hcleared, v, .inl ⟨hbit, regAt_eq_status hr ▸ hhead⟩⟩
      · exact .inr ⟨hcleared, v, .inr ⟨hbit, regAt_eq_ctrl hr ▸ hhead⟩⟩
    · exact .inl rfl

/-! ## The interrupt line (R127) -/

/-- Completing a command, with or without an error, leaves `irq` at IRQEN. -/
theorem irq_of_engineStep {s t : State} {sn : Snapshot} (hf : s.inFlight = some sn) (h : engineStep s = .next t) :
    t.irq = s.irqen := by
  rcases engineStep_some_cases hf h with ⟨e, rfl⟩ | ⟨i, -, rfl⟩ <;> simp [State.irq]

theorem State.irq_writeStatus (s : State) (v : Word) : (s.writeStatus v).irq = (s.irq && !v.getLsbD 1) := by
  simp [State.irq, Bool.and_assoc]

/-- A soft reset lowers `irq`; any other write of `CTRL` takes bit 1 as the enable. -/
theorem State.irq_writeCtrl (cap : Nat) (s : State) (v : Word) :
    (s.writeCtrl cap v).irq = (s.done && v.getLsbD 1 && !v.getLsbD 0) := by
  cases h : v.getLsbD 0 with
  | false => simp [s.writeCtrl_of_clear h, State.irq, Bool.and_comm]
  | true => simp [s.writeCtrl_of_set h, State.irq, State.reset]

theorem State.irq_writeCmd (s : State) (v : Word) : (s.writeCmd v).irq = s.irq := by
  cases h : s.busy <;> simp [State.writeCmd, State.irq, h]

/-- A bus error is answered ERROR at once and changes nothing else (R125). -/
theorem step_getsBusError {s : State} {x : Txn} {rest : List Txn} (h : HostTurn s x rest) (hx : GetsBusError x) :
    step s = .next (answered s rest .error) := by
  obtain ⟨hport, hturn⟩ := h
  exact step_busError hport ((Txn.target_eq_none_iff x).mpr hx) hturn

/-! ## The invariant -/

/-- The fields the invariant speaks of. -/
def State.guarded (s : State) : Memory × (Bool × BitVec 8 × Word) × Option Snapshot × Word :=
  (s.mem, s.errorRecord, s.inFlight, s.cmd)

/-- The fields outside `guarded` change freely under the invariant. -/
theorem Invariant.congr {s t : State} (h : Invariant s) (hsame : t.guarded = s.guarded) : Invariant t := by
  simp only [State.guarded, State.errorRecord, Prod.mk.injEq] at hsame
  obtain ⟨hmem, ⟨herr, hcode, hinfo⟩, hflight, hcmd⟩ := hsame
  obtain ⟨hwf, hinside, hnone, hsome, hlatch⟩ := h
  constructor
  · rwa [hmem]
  · rwa [hmem]
  · rwa [herr, hcode, hinfo]
  · rwa [herr, hcode]
  · rwa [hflight, hcmd]

theorem Invariant.sound {s : State} (h : Invariant s) : s.mem.Sound := ⟨h.canonical, h.insideMemories⟩

theorem Invariant.withMem {s : State} (h : Invariant s) {m : Memory} (hm : m.Sound) : Invariant { s with mem := m } :=
  ⟨hm.1, hm.2, h.noErrorNoRecord, h.errorHasCode, h.cmdIsSnapshot⟩

theorem Invariant.after_complete {s : State} (h : Invariant s) : Invariant s.complete :=
  ⟨h.canonical, h.insideMemories, h.noErrorNoRecord, h.errorHasCode, nofun⟩

theorem Invariant.after_recordError {s : State} (h : Invariant s) (e : CmdError) (word : Word) :
    Invariant (s.recordError e word) := by
  unfold State.recordError
  split_ifs
  · exact h
  · exact ⟨h.canonical, h.insideMemories, nofun, fun _ => ⟨e, rfl⟩, h.cmdIsSnapshot⟩

theorem Invariant.after_accept {s : State} (h : Invariant s) (v : Word) : Invariant (s.accept v) :=
  ⟨h.canonical, h.insideMemories, h.noErrorNoRecord, h.errorHasCode, fun _ hf => Option.some.inj hf ▸ rfl⟩

theorem Invariant.after_clearError {s : State} (h : Invariant s) : Invariant s.clearError :=
  ⟨h.canonical, h.insideMemories, fun _ => ⟨rfl, rfl⟩, nofun, h.cmdIsSnapshot⟩

theorem Invariant.after_writeStatus {s : State} (h : Invariant s) (v : Word) : Invariant (s.writeStatus v) := by
  unfold State.writeStatus
  split_ifs
  · exact h.after_clearError.congr rfl
  · exact h.congr rfl

theorem Invariant.after_softReset {s : State} (h : Invariant s) : Invariant (s.softReset Config.sigCap) :=
  have ⟨hwf, hinside⟩ := State.memAfterAbort_sound h.sound
  ⟨hwf, hinside, fun _ => ⟨rfl, rfl⟩, nofun, nofun⟩

/-- Every register's write keeps the invariant (R52). -/
theorem Invariant.after_regWrite {s : State} (h : Invariant s) (v : Word) (r : Reg) :
    Invariant (regWrite Config.sigCap s v r) := by
  cases r with
  | ctrl =>
    rw [regWrite, State.writeCtrl]
    split_ifs
    · exact h.after_softReset
    · exact h.congr rfl
  | status => exact h.after_writeStatus v
  | cmd =>
    rw [regWrite, State.writeCmd]
    split_ifs
    · exact h.congr rfl
    · exact h.after_accept v
  | _ => exact h.congr rfl

/-- Serving a transaction keeps the invariant: a served write of memory is to a populated word (R53). -/
theorem Invariant.after_txnEffect {s : State} (h : Invariant s) (t : Txn) : Invariant (Txn.effect Config.sigCap t s) := by
  rcases Txn.effect_cases Config.sigCap t s with he | ⟨v, -, -, he⟩ | ⟨v, r, -, ht, hr, he⟩ <;> rw [he]
  · exact h
  · exact h.after_regWrite v _
  · obtain ⟨-, -, hregion, -⟩ := Txn.target_some ht
    obtain ⟨-, -, hword⟩ := regionOf_some hregion
    exact h.withMem (h.sound.set hr hword v)

theorem Invariant.after_hostStep {s : State} (h : Invariant s) : Invariant (hostStep Config.sigCap s) := by
  cases hp : s.port with
  | nil => rwa [hostStep, hp]
  | cons t rest =>
    have hserved : Invariant (Txn.effect Config.sigCap t { s with port := rest }) :=
      Invariant.after_txnEffect (s := { s with port := rest }) (h.congr rfl) t
    rw [hostStep_cons hp]
    exact hserved.congr rfl

theorem Invariant.after_engineStep {s t : State} (h : Invariant s) (ht : engineStep s = .next t) : Invariant t := by
  cases hf : s.inFlight with
  | none =>
    rw [engineStep_idle hf] at ht
    cases ht
    exact h
  | some sn =>
    rcases engineStep_some_cases hf ht with ⟨e, rfl⟩ | ⟨i, hv, rfl⟩
    · exact (h.after_recordError e sn.cmd).after_complete
    · exact (h.withMem (effect_sound hv h.sound)).after_complete

end Sys2Proof.Machine
end

section
/-! SUPPORT. The proofs of the statements about errors, the interrupt line and the invariant (spec/60_exceptions.md). -/

namespace Sys2Proof.Proofs

open Sys2Proof Sys2Proof.Machine Sys2Proof.Statements

/-- Settles O46: a turn used up touches no guarded field, and both agents' steps keep the invariant. -/
theorem everyStepKeepsTheInvariant : Obligations.EveryStepKeepsTheInvariant := by
  intro s t hinv h
  have hturn : Invariant s.afterTurn := hinv.congr rfl
  rcases step_cases s with ⟨-, hs⟩ | ⟨-, hs⟩ | ⟨-, hs⟩ <;> rw [hs] at h
  · cases h
    exact hturn
  · exact hturn.after_engineStep h
  · cases h
    exact hturn.after_hostStep

/-- Settles O14: the checks of R79 bound each range by the capacity of its memory. -/
theorem writeSetsLieInsideTheirMemories : Obligations.WriteSetsLieInsideTheirMemories :=
  fun _ _ hv => writeSet_writable hv

/-- Settles O38: the engine's completion, the three register writes and the bus error, each by what it does to `irq`. -/
theorem interruptFollowsCompletion : Obligations.InterruptFollowsCompletion :=
  ⟨fun _ _ _ => irq_of_engineStep,
    fun _ _ v ht => ⟨_, step_writeReg .status ht, State.irq_writeStatus _ v⟩,
    fun _ _ v ht => ⟨_, step_writeReg .ctrl ht, State.irq_writeCtrl _ _ v⟩,
    fun _ _ v ht => ⟨_, step_writeReg .cmd ht, State.irq_writeCmd _ v⟩,
    fun _ _ _ ht hx => ⟨_, step_getsBusError ht hx, rfl⟩⟩

/-- Settles O39: the four cases are the transactions served from no region, whose step answers ERROR. -/
theorem busErrorChangesNothing : Obligations.BusErrorChangesNothing :=
  fun _ _ _ ht hx => step_getsBusError ht hx

/-- Settles O50: a turn used up and the engine's step keep the record, and of the host's steps only the two writes of R124
clear it. -/
theorem firstErrorStandsUntilCleared : Obligations.FirstErrorStandsUntilCleared := by
  intro s t herr h
  have hkept (hsame : t.errorRecord = s.errorRecord) : t.err = true ∧ t.errcode = s.errcode ∧ t.errinfo = s.errinfo := by
    simpa only [State.errorRecord, Prod.mk.injEq, herr] using hsame
  rcases step_cases s with ⟨-, hs⟩ | ⟨-, hs⟩ | ⟨-, hs⟩ <;> rw [hs] at h
  · cases h
    exact .inl (hkept rfl)
  · exact .inl (hkept (engineStep_errorRecord (s := s.afterTurn) herr h))
  · cases h
    rcases hostStep_errorRecord Config.sigCap s.afterTurn with hsame | ⟨hcleared, v, hwrite⟩
    · exact .inl (hkept hsame)
    · simp only [State.errorRecord, Prod.mk.injEq] at hcleared
      obtain ⟨he, hcode, hinfo⟩ := hcleared
      exact .inr ⟨he, hcode, hinfo, v, hwrite⟩

/-- Settles O8: the engine's step answers a next state, and the other two cases of a step are next states. -/
theorem everyStateHasANextState : Obligations.EveryStateHasANextState := by
  intro s
  rcases step_cases s with ⟨-, hs⟩ | ⟨-, hs⟩ | ⟨-, hs⟩
  · exact ⟨_, hs⟩
  · obtain ⟨t, ht⟩ := engineStep_next s.afterTurn
    exact ⟨t, hs.trans ht⟩
  · exact ⟨_, hs⟩

end Sys2Proof.Proofs
end

section
/-! SUPPORT. The reset state and the soft reset (spec/10_state.md R21, R49; spec/70_reset_and_hazards.md R139, R140): the bytes
of memory at reset, and the bytes an abort keeps. -/

namespace Sys2Proof.Machine

/-! ## The reset state (R139) -/

/-- No byte is written at reset, so each reads as its power-on draw (R49). -/
theorem Memory.byte_reset (a : Nat) : State.reset.mem.byte a = Config.powerOnByte a := by
  rw [Memory.byte, State.reset, Memory.lookup_nil, Option.getD_none]

/-! ## The bytes an abort keeps (R140) -/

theorem Memory.byte_redraw_outside {number : Nat} {m : Memory} {r : WordRange} {a : Nat}
    (h : a < r.region.wordAddr r.first ∨ r.region.wordAddr r.first + 4 * r.count ≤ a) :
    (m.redraw number r).byte a = m.byte a := by
  rw [Memory.redraw, Memory.byte_writeBytes, if_neg (by omega)]

/-- Redrawing ranges one after the other keeps every byte outside all of them. -/
theorem Memory.byte_foldl_redraw_outside {number : Nat} {ranges : List WordRange} {a : Nat}
    (h : inRanges ranges a = false) (m : Memory) : (ranges.foldl (Memory.redraw number) m).byte a = m.byte a := by
  induction ranges generalizing m with
  | nil => rfl
  | cons r rs ih =>
    obtain ⟨hr, hrs⟩ := (inRanges_cons_eq_false_iff r rs a).mp h
    calc ((r :: rs).foldl (Memory.redraw number) m).byte a
        = (m.redraw number r).byte a := ih hrs (m.redraw number r)
      _ = m.byte a := Memory.byte_redraw_outside hr

theorem State.memAfterAbort_idle {s : State} (h : s.inFlight = none) (cap : Nat) : s.memAfterAbort cap = s.mem := by
  simp [State.memAfterAbort, h]

theorem State.byte_memAfterAbort_outside {s : State} {sn : Snapshot} {cap a : Nat} (h : s.inFlight = some sn)
    (ha : inRanges (writeSetOf cap sn) a = false) : (s.memAfterAbort cap).byte a = s.mem.byte a := by
  simp only [State.memAfterAbort, h]
  exact Memory.byte_foldl_redraw_outside ha s.mem

end Sys2Proof.Machine
end

section
/-! SUPPORT. The proofs of the statements about reset (spec/70_reset_and_hazards.md). -/

namespace Sys2Proof.Proofs

open Sys2Proof Sys2Proof.Machine Sys2Proof.Statements

/-- Settles O36: the write of `CTRL` is the soft reset of the answered state, whose memory is the one after the abort. -/
theorem softResetKeepsOtherMemory : Obligations.SoftResetKeepsOtherMemory := by
  intro s rest v ht h0
  refine ⟨s.memAfterAbort Config.sigCap, ?_, fun hidle => State.memAfterAbort_idle hidle _,
    fun _ hf _ ha => State.byte_memAfterAbort_outside hf ha⟩
  rw [step_writeReg .ctrl ht]
  exact congrArg _ (State.writeCtrl_of_set _ h0)

/-- Settles O37: each register's word by its read at the reset fields, `SIGCAP` by the bound of the parameter, the memory
by its having no written byte. -/
theorem resetStateIsAsSpecified : Obligations.ResetStateIsAsSpecified := by
  refine ⟨?_, regRead_sigcap_toNat _, rfl, rfl, Memory.byte_reset⟩
  simp only [List.forall_mem_cons, List.not_mem_nil, IsEmpty.forall_iff, implies_true, and_true]
  exact ⟨rfl, rfl, rfl, rfl, rfl, rfl, rfl, rfl, rfl, rfl, rfl, rfl, rfl⟩

/-- Settles O45: nothing is written, no error is recorded and no command is in flight. -/
theorem invariantHoldsAtReset : Obligations.InvariantHoldsAtReset where
  canonical := Memory.reset_wf
  insideMemories := List.forall_mem_nil _
  noErrorNoRecord _ := ⟨rfl, rfl⟩
  errorHasCode := nofun
  cmdIsSnapshot := nofun

end Sys2Proof.Proofs
end
